-- ==== Sys2Proof/Word.lean ====
section
/-! DEFINITION. The words of the FreqSynth DDS encoder: the byte that goes onto the wire and the 4-bit step index. -/

namespace Sys2Proof

/-- A byte (00_scope.md R8: bit 0 is the least significant bit). -/
abbrev Byte := BitVec 8

/-- A sequencer step index, the width of `SEQ_PC` (10_state.md R30: "a 4-bit step index"). -/
abbrev StepIndex := BitVec 4

end Sys2Proof
end

