-- ==== Sys2Proof/Config.lean ====
section
/-! DEFINITION. The implementation parameters (00_scope.md R6) as one record, the two OPEN parameters as constants
without a body, and the free values: what the spec leaves open, as constants nothing can evaluate. The spec's default
record is `Sys2Proof.Machine.params` (Machine/Params.lean). -/

namespace Sys2Proof

/-- The rounding functions a parameter may name (00_scope.md R6, R10). -/
inductive Rounding where
  /-- The greatest integer not above the argument (R10). -/
  | floor
  /-- To nearest, ties away from zero (R10, D5). -/
  | rne0
  deriving DecidableEq, Repr

/-- The configuration constants of 00_scope.md R6, one field per row of its table, and the positions of the CFR1 flags
(43_register_frames.md R223). They never change (10_state.md R34);
an operation reads them from here and hard-codes none. -/
structure Config where
  /-- SYSFREQ, Hz (D1). -/
  sysfreq : ℚ
  /-- FTW_BITS. -/
  ftwBits : ℕ
  /-- ASF_MAX. -/
  asfMax : ℕ
  /-- P_MAX_DBM, dBm (OPEN, D14). -/
  pMaxDbm : ℚ
  /-- FREQ_MIN, Hz. -/
  freqMin : ℚ
  /-- FREQ_MAX, Hz (a literal, not half of SYSFREQ: R7). -/
  freqMax : ℚ
  /-- FREQ_WARN, Hz (a literal: R7). -/
  freqWarn : ℚ
  /-- TONE_DEFAULT, Hz. -/
  toneDefault : ℚ
  /-- RATE_NUM. -/
  rateNum : ℕ
  /-- N_TAB, the number of tone-table entries. -/
  nTab : ℕ
  /-- TONE_PEAK, Hz. -/
  tonePeak : ℕ
  /-- TONE_TABLE, the contents of TONE_ROM (D7, 41_tone_sweep.md R166). -/
  toneTable : List ℤ
  /-- RND_FTW (conflict C1). -/
  rndFtw : Rounding
  /-- RND_ASF (conflict C2). -/
  rndAsf : Rounding
  /-- RND_RATE (D5). -/
  rndRate : Rounding
  /-- ADDR_RAM. -/
  addrRam : Byte
  /-- ADDR_CFR1 (D8). -/
  addrCfr1 : Byte
  /-- ADDR_CFR2 (D8). -/
  addrCfr2 : Byte
  /-- ADDR_ASF (D8). -/
  addrAsf : Byte
  /-- ADDR_ARR (D8). -/
  addrArr : Byte
  /-- ADDR_FTW0 (D8). -/
  addrFtw0 : Byte
  /-- ADDR_RSCW (D8). -/
  addrRscw : Byte
  /-- LEN_FTW, bytes. -/
  lenFtw : ℕ
  /-- LEN_ASF, bytes. -/
  lenAsf : ℕ
  /-- LEN_RSCW, bytes. -/
  lenRscw : ℕ
  /-- LEN_RAM, bytes. -/
  lenRam : ℕ
  /-- LEN_CFR1, bytes (D9). -/
  lenCfr1 : ℕ
  /-- LEN_CFR2, bytes (D9). -/
  lenCfr2 : ℕ
  /-- LEN_ARR, bytes (D9). -/
  lenArr : ℕ
  /-- CFR1_BASE (D10). -/
  cfr1Base : List Byte
  /-- CFR1_RAM_EN (D10). -/
  cfr1RamEn : List Byte
  /-- Where CFR1 has the amplitude-control-enable flag (43_register_frames.md R223); bit 0 is the last bit on the wire. -/
  cfr1AmplitudeBit : ℕ
  /-- Where CFR1 has the comparator-disable flag (R223). -/
  cfr1ComparatorBit : ℕ
  /-- Where CFR1 has the RAM-enable flag (R223). -/
  cfr1RamBit : ℕ
  /-- CFR2_PAYLOAD (D11). -/
  cfr2Payload : List Byte
  /-- ARR_PAYLOAD (OPEN, D12). -/
  arrPayload : List Byte
  /-- RSCW_TAIL, three bytes (D13). -/
  rscwTail : Vector Byte 3
  /-- CS_ACTIVE, the level that asserts chip-select. -/
  csActive : Bool
  /-- RESET_ACTIVE, the level that asserts reset (D15). -/
  resetActive : Bool
  /-- T_STROBE_PRE_MS (D16). -/
  tStrobePreMs : ℕ
  /-- T_STROBE_HIGH_MS (D16). -/
  tStrobeHighMs : ℕ
  /-- T_STROBE_POST_MS (D16). -/
  tStrobePostMs : ℕ
  /-- T_TOGGLE_MS. -/
  tToggleMs : ℕ
  /-- T_RESET_MS (D18). -/
  tResetMs : ℕ
  deriving DecidableEq, Repr

/-- P_MAX_DBM: OPEN (D14). No value anywhere, so none here: every claim holds for all of them. -/
opaque Config.pMaxDbmOpen : ℚ

/-- Byte number `k` of ARR_PAYLOAD, "its fastest setting": OPEN (D12). -/
opaque Config.arrPayloadOpen : ℕ → Byte

/-- FREE VALUE (60_exceptions.md R300, U6): on a run with two fatal causes, whether the first of them is the one raised. -/
opaque Config.freeFirstCause : ℕ → Bool

/-- FREE VALUE (60_exceptions.md R300): WARN_HI after a fatal error. -/
opaque Config.freeWarnHi : ℕ → Bool

/-- FREE VALUE (60_exceptions.md R300): whether a `Diag(FreqHigh)` record accompanies a fatal amplitude error. -/
opaque Config.freeWarnDiag : ℕ → Bool

/-- FREE VALUE (10_state.md R29): SHREG outside an XFER. -/
opaque Config.freeShreg : ℕ → Byte

/-- FREE VALUE (10_state.md R29): BITCNT outside an XFER. -/
opaque Config.freeBitcnt : ℕ → BitVec 4

/-- FREE VALUE (10_state.md R29): BYTEIDX outside an XFER. -/
opaque Config.freeByteidx : ℕ → ℕ

/-- FREE VALUE (10_state.md R29): XLEN outside an XFER. -/
opaque Config.freeXlen : ℕ → ℕ

/-- FREE VALUE (60_exceptions.md R318, D31): the text of the `Trace` record at a place of TRACE. -/
opaque Config.freeTraceText : ℕ → String

end Sys2Proof
end

