-- ==== Sys2Proof/Machine/Params.lean ====
section
/-! DEFINITION. The configuration the machine runs with: the values of 00_scope.md R6. Values marked "source" there are the
spec's; the "decided" ones are the spec's own choices (log entry 11); the two OPEN ones have no value (log entry 10). The
positions of the CFR1 flags are R223's, from general knowledge (log entry 28). -/

namespace Sys2Proof.Machine

/-- `TONE_TABLE`, ten entries per row, `i` = 0 first (41_tone_sweep.md R166). DESIGN CHOICE of the spec (D7). -/
def toneTableDefault : List ℤ :=
  [0, 157, 313, 468, 622, 773, 920, 1064, 1204, 1340]
  ++ [1469, 1594, 1711, 1822, 1926, 2023, 2111, 2191, 2262, 2324]
  ++ [2378, 2421, 2456, 2480, 2495, 2500, 2495, 2480, 2456, 2421]
  ++ [2378, 2324, 2262, 2191, 2111, 2023, 1926, 1822, 1711, 1594]
  ++ [1469, 1340, 1204, 1064, 920, 773, 622, 468, 313, 157]
  ++ [0, -157, -313, -468, -622, -773, -920, -1064, -1204, -1340]
  ++ [-1469, -1594, -1711, -1822, -1926, -2023, -2111, -2191, -2262, -2324]
  ++ [-2378, -2421, -2456, -2480, -2495, -2500, -2495, -2480, -2456, -2421]
  ++ [-2378, -2324, -2262, -2191, -2111, -2023, -1926, -1822, -1711, -1594]
  ++ [-1469, -1340, -1204, -1064, -920, -773, -622, -468, -313, -157]

/-- LEN_ARR (D9). -/
def lenArrDefault : ℕ := 1

/-- The parameters of 00_scope.md R6. -/
def params : Config where
  sysfreq := 400000000
  ftwBits := 32
  asfMax := 16383
  pMaxDbm := Config.pMaxDbmOpen
  freqMin := 0
  freqMax := 200000000
  freqWarn := 160000000
  toneDefault := 1000
  rateNum := 1000000
  nTab := 100
  tonePeak := 2500
  toneTable := toneTableDefault
  rndFtw := .floor
  rndAsf := .rne0
  rndRate := .rne0
  addrRam := 0x0B
  addrCfr1 := 0x00
  addrCfr2 := 0x01
  addrAsf := 0x02
  addrArr := 0x03
  addrFtw0 := 0x04
  addrRscw := 0x07
  lenFtw := 4
  lenAsf := 2
  lenRscw := 5
  lenRam := 400
  lenCfr1 := 4
  lenCfr2 := 3
  lenArr := lenArrDefault
  cfr1Base := [0x02, 0x00, 0x00, 0x40]
  cfr1RamEn := [0x80, 0x00, 0x00, 0x00]
  cfr1AmplitudeBit := 25
  cfr1ComparatorBit := 6
  cfr1RamBit := 31
  cfr2Payload := [0x00, 0x00, 0x24]
  arrPayload := (List.range lenArrDefault).map Config.arrPayloadOpen
  rscwTail := #v[0x63, 0x00, 0x80]
  csActive := false
  resetActive := true
  tStrobePreMs := 0
  tStrobeHighMs := 1
  tStrobePostMs := 0
  tToggleMs := 500
  tResetMs := 0

end Sys2Proof.Machine
end

