-- ==== Sys2Proof/Syntax.lean ====
section
/-! DEFINITION. The operations of the block as syntax: one constructor per row of spec/opcode_table.json, with the operand
forms the spec gives each. Meanings are in Machine/. -/

namespace Sys2Proof

/-- The synthesis mode, the tag held by `MODE` (10_state.md R21, R22). -/
inductive Mode where
  /-- `SingleFrequency`. -/
  | singleFrequency
  /-- `FrequencyModulatedTone`. -/
  | frequencyModulatedTone
  deriving DecidableEq, Repr

/-- The operand registers `WR_RSCW t` may name (43_register_frames.md R234: "`t` names an operand register, `TONE1` or `TONE2`"). -/
inductive ToneReg where
  | tone1
  | tone2
  deriving DecidableEq, Repr

/-- The carrier operand of `GEN_RAMTAB`: a rational number of Hz (41_tone_sweep.md R170), or the register read `x[FREQ]`
that row 6 of PROG_FM passes (44_sequencer.md R258). -/
inductive Carrier where
  | value (hz : ℚ)
  | freq
  deriving DecidableEq, Repr

/-- The seven chip registers the block writes (10_state.md R35). -/
inductive ChipReg where
  | cfr1
  | arr
  | cfr2
  | asf
  | ftw0
  | ram
  | rscw
  deriving DecidableEq, Repr

/-- The operations of spec/opcode_table.json, one constructor per row, in the table's order. -/
inductive Instr where
  /-- WR_CFR1: program control-function register 1 (R222). -/
  | wrCfr1
  /-- WR_ARR: program the amplitude-ramp-rate register (R224). -/
  | wrArr
  /-- WR_CFR2: program the system-clock multiplier register (R226). -/
  | wrCfr2
  /-- WR_ASF: write the amplitude scale factor (R228). -/
  | wrAsf
  /-- WR_FTW0: compute and write the carrier tuning word (R230). -/
  | wrFtw0
  /-- WR_RAM: write the RAM table (R232). -/
  | wrRam
  /-- WR_RSCW t: program the ramp-sweep control word (R234). -/
  | wrRscw (t : ToneReg)
  /-- ENC_FTW f: frequency in Hz to tuning word (R121). -/
  | encFtw (f : ℚ)
  /-- ENC_ASF_REL d: relative level in dB to amplitude (R131). -/
  | encAsfRel (d : ℚ)
  /-- ENC_ASF_DBM p: absolute level in dBm to amplitude (R132). -/
  | encAsfDbm (p : ℚ)
  /-- ENC_ASF_INT n: direct integer (R133). -/
  | encAsfInt (n : ℕ)
  /-- CHK_ASF: amplitude range check (R134). -/
  | chkAsf
  /-- GEN_RSCW t: tone frequency in Hz to ramp-sweep control word (R162). -/
  | genRscw (t : ℚ)
  /-- GEN_RAMTAB c: carrier to RAM table (R170). -/
  | genRamtab (c : Carrier)
  /-- XFER I, D: send one frame (R192). -/
  | xfer (instr : Byte) (payload : List Byte)
  /-- SHIFT_BYTE b: send one byte, most significant bit first (R194). -/
  | shiftByte (b : Byte)
  /-- STROBE: the update-strobe pulse (R196). -/
  | strobe
  /-- VALIDATE: amplitude conversion and range checks (R252). -/
  | validate
  /-- INIT: pin set-up, chip reset, idle levels (R254). -/
  | init
  /-- BTONE2 t: conditional entry to the tone loop (R259). -/
  | btone2 (t : StepIndex)
  /-- SLEEP ms (R261). -/
  | sleep (ms : ℕ)
  /-- JMP t (R261). -/
  | jmp (t : StepIndex)
  /-- EXIT c: end of run (R262). -/
  | exit (c : ℕ)
  /-- PROG_SF: the single-frequency program, rows 0 to 7 (R257). -/
  | progSf
  /-- PROG_FM: the FM-tone program, rows 0 to 14 (R258 to R260). -/
  | progFm
  deriving DecidableEq, Repr

end Sys2Proof
end

