-- ==== Sys2Proof/WellFormed.lean ====
section
/-! DEFINITION. Well-formed instructions, frames and configurations: checks that evaluate, but for the one condition on real
numbers, that the tone table samples a sine. Each refuses an ill-formed term in Tests/Slice0.lean. -/

namespace Sys2Proof

/-- A branch target is a row of a program: index 15 has no step in either (10_state.md R30). -/
def StepIndex.isRow (t : StepIndex) : Bool := t.toNat ≤ 14

/-- A well-formed instruction: the targets of `BTONE2` and `JMP` are rows (44_sequencer.md R266: "every target is a constant
of the program"); every other operand is well formed by its type. -/
def Instr.wellFormed : Instr → Bool
  | .btone2 t => StepIndex.isRow t
  | .jmp t => StepIndex.isRow t
  | .wrCfr1 | .wrArr | .wrCfr2 | .wrAsf | .wrFtw0 | .wrRam | .wrRscw _ => true
  | .encFtw _ | .encAsfRel _ | .encAsfDbm _ | .encAsfInt _ | .chkAsf => true
  | .genRscw _ | .genRamtab _ => true
  | .xfer _ _ | .shiftByte _ | .strobe => true
  | .validate | .init | .sleep _ | .exit _ | .progSf | .progFm => true

/-- The instruction byte of a chip register (10_state.md R35). -/
def ChipReg.addr (c : Config) : ChipReg → Byte
  | .cfr1 => c.addrCfr1
  | .arr => c.addrArr
  | .cfr2 => c.addrCfr2
  | .asf => c.addrAsf
  | .ftw0 => c.addrFtw0
  | .ram => c.addrRam
  | .rscw => c.addrRscw

/-- The fixed payload length of a chip register (10_state.md R35, 30_encoding.md R99). -/
def ChipReg.len (c : Config) : ChipReg → ℕ
  | .cfr1 => c.lenCfr1
  | .arr => c.lenArr
  | .cfr2 => c.lenCfr2
  | .asf => c.lenAsf
  | .ftw0 => c.lenFtw
  | .ram => c.lenRam
  | .rscw => c.lenRscw

/-- The seven registers, in the table's order. -/
def ChipReg.all : List ChipReg := [.cfr1, .arr, .cfr2, .asf, .ftw0, .ram, .rscw]

/-- A payload fits its register: exactly the register's length (20_memory.md R67). -/
def ChipReg.payloadFits (c : Config) (r : ChipReg) (payload : List Byte) : Bool :=
  payload.length == r.len c

/-- "The seven instruction bytes must be pairwise distinct" (30_encoding.md R99, U24). -/
def Config.addrsDistinct (c : Config) : Bool :=
  decide ((ChipReg.all.map (ChipReg.addr c)).Nodup)

/-- The lengths that the buffers fix, and the constant payloads of the stated lengths (00_scope.md R6, 70_reset_and_hazards.md R334). -/
def Config.lengthsAgree (c : Config) : Bool :=
  c.lenFtw == 4 && c.lenAsf == 2 && c.lenRscw == 5 && c.lenRam == 400 && c.lenRam == 4 * c.nTab
    && c.cfr1Base.length == c.lenCfr1 && c.cfr1RamEn.length == c.lenCfr1
    && c.cfr2Payload.length == c.lenCfr2 && c.arrPayload.length == c.lenArr

/-- The number of bits set in a byte. -/
def Byte.ones (b : Byte) : ℕ := ((List.range 8).filter b.getLsbD).length

/-- CFR1_RAM_EN "has exactly one bit set, the RAM-enable bit, and that bit is clear in `CFR1_BASE`"
(43_register_frames.md R223). -/
def Config.ramEnableIsOneBit (c : Config) : Bool :=
  (c.cfr1RamEn.map Byte.ones).sum == 1
    && (List.zipWith (· &&& ·) c.cfr1Base c.cfr1RamEn).all (· == 0)

/-- Bit `k` of a payload sent most significant byte first; bit 0 is the last one sent (30_encoding.md R96). -/
def payloadBit (payload : List Byte) (k : ℕ) : Bool := (payload.reverse[k / 8]?.getD 0).getLsbD (k % 8)

/-- The three flags of CFR1 (43_register_frames.md R223), at three different positions inside the register: "`CFR1_BASE` has the
amplitude-control-enable bit set and the comparator-disable bit set", and the bit of CFR1_RAM_EN is the RAM-enable bit. -/
def Config.cfr1FlagsSet (c : Config) : Bool :=
  let flags := [c.cfr1AmplitudeBit, c.cfr1ComparatorBit, c.cfr1RamBit]
  decide flags.Nodup && flags.all (fun k => decide (k < 8 * c.lenCfr1))
    && payloadBit c.cfr1Base c.cfr1AmplitudeBit && payloadBit c.cfr1Base c.cfr1ComparatorBit
    && payloadBit c.cfr1RamEn c.cfr1RamBit

/-- The part of 41_tone_sweep.md R167 that compares entries with the peak: as many entries as N_TAB, every one in
[-TONE_PEAK, TONE_PEAK], and both ends of that interval among them. -/
def Config.toneTableInRange (c : Config) : Bool :=
  c.toneTable.length == c.nTab
    && c.toneTable.all (fun o => decide (-(c.tonePeak : ℤ) ≤ o ∧ o ≤ c.tonePeak))
    && c.toneTable.contains (c.tonePeak : ℤ) && c.toneTable.contains (-(c.tonePeak : ℤ))

/-- "it samples one full sine cycle" (R167): equal steps of one cycle, each entry within one of the sine at its step. R167 leaves
open where the cycle starts (`phase`) and whether the last sample repeats the first (`steps` one less than N_TAB). That an
entry may miss the sine by anything below one, so by any rounding, is the model's reading (log entry 27). -/
def Config.toneTableSamplesSine (c : Config) : Prop :=
  ∃ (phase : ℝ) (steps : ℕ), (steps = c.nTab ∨ steps + 1 = c.nTab) ∧
    ∀ (i : ℕ) (o : ℤ), c.toneTable[i]? = some o →
      |(o : ℝ) - c.tonePeak * Real.sin (phase + 2 * Real.pi * i / steps)| < 1

/-- What any admissible tone table satisfies (R167). -/
def Config.toneTableAdmissible (c : Config) : Prop := c.toneTableInRange = true ∧ c.toneTableSamplesSine

/-- The numeric constants the register widths rest on: a positive SYSFREQ (00_scope.md R6 "positive rational"), a 32-bit
tuning word, an amplitude that fits 14 bits, and the default tone positive. -/
def Config.numbersFit (c : Config) : Bool :=
  decide (0 < c.sysfreq) && c.ftwBits == 32 && decide (c.asfMax < 2 ^ 14) && decide (0 < c.toneDefault)

/-- A well-formed configuration (70_reset_and_hazards.md R334 (1)). -/
def Config.wellFormed (c : Config) : Prop :=
  c.addrsDistinct = true ∧ c.lengthsAgree = true ∧ c.ramEnableIsOneBit = true ∧ c.cfr1FlagsSet = true ∧
    c.toneTableAdmissible ∧ c.numbersFit = true

end Sys2Proof
end

