-- ==== Sys2Proof/Decode.lean ====
section
/-! DEFINITION. The opcode map (30_encoding.md R99) read both ways: a frame's bytes to the register-write operation it
belongs to, and back. The block itself decodes nothing (R100): its programs are hardwired. The decoder is the reading of a
frame, the encoder the writing of one. After the decoder stands `slotOf`, which says at which row of which program an
operation stands (10_state.md R30), the only "address" an operation has inside the block. -/

namespace Sys2Proof

/-- Why a byte string is not a frame of the opcode map. -/
inductive DecodeError where
  /-- No byte at all. -/
  | noInstructionByte
  /-- An instruction byte outside the seven of R99; it means nothing to the model (R100, D27). -/
  | unknownInstructionByte (b : Byte)
  /-- Fewer payload bytes than the register's fixed length (R98). -/
  | shortPayload (r : ChipReg) (found : ℕ)
  deriving DecidableEq, Repr

/-- A decoded frame: the operation, its payload, and the bytes that follow. -/
structure Decoded where
  instr : Instr
  payload : List Byte
  rest : List Byte
  deriving DecidableEq, Repr

/-- The register an instruction byte names (R91, R99). -/
def ChipReg.ofAddr (c : Config) (b : Byte) : Option ChipReg :=
  ChipReg.all.find? (fun r => r.addr c == b)

/-- The register-write operation of a register (R99). The byte of RSCW does not say which tone register it was computed
from: read as TONE1, the first row that sends it (log entry 16). -/
def ChipReg.instr : ChipReg → Instr
  | .cfr1 => .wrCfr1
  | .arr => .wrArr
  | .cfr2 => .wrCfr2
  | .asf => .wrAsf
  | .ftw0 => .wrFtw0
  | .ram => .wrRam
  | .rscw => .wrRscw .tone1

/-- Reads one frame: the instruction byte selects the register (R91), whose fixed length says how many payload bytes
follow (R98). Total on any bytes. -/
def decode (c : Config) : List Byte → Except DecodeError Decoded
  | [] => .error .noInstructionByte
  | b :: bs =>
    match ChipReg.ofAddr c b with
    | none => .error (.unknownInstructionByte b)
    | some r =>
      if bs.length < r.len c then .error (.shortPayload r bs.length)
      else .ok { instr := r.instr, payload := bs.take (r.len c), rest := bs.drop (r.len c) }

/-- The register a register-write operation sends its frame to (R99); the internal operations have no frame of their own. -/
def Instr.chipReg? : Instr → Option ChipReg
  | .wrCfr1 => some .cfr1
  | .wrArr => some .arr
  | .wrCfr2 => some .cfr2
  | .wrAsf => some .asf
  | .wrFtw0 => some .ftw0
  | .wrRam => some .ram
  | .wrRscw _ => some .rscw
  | .encFtw _ | .encAsfRel _ | .encAsfDbm _ | .encAsfInt _ | .chkAsf => none
  | .genRscw _ | .genRamtab _ => none
  | .xfer _ _ | .shiftByte _ | .strobe => none
  | .validate | .init | .btone2 _ | .sleep _ | .jmp _ | .exit _ | .progSf | .progFm => none

/-- The bytes of one frame (R90): the register's instruction byte, then the payload. -/
def encodeFrame (c : Config) (r : ChipReg) (payload : List Byte) : List Byte :=
  r.addr c :: payload

/-- The words of an instruction with a given payload: its frame, for the seven operations that have one (R99). -/
def encode (c : Config) (i : Instr) (payload : List Byte) : Option (List Byte) :=
  i.chipReg?.map (fun r => encodeFrame c r payload)

/-- What the opcode map keeps of an instruction: everything but the register operand of `WR_RSCW`, which no wire bit
carries (log entry 16). -/
def Instr.onWire : Instr → Instr
  | .wrRscw _ => .wrRscw .tone1
  | i => i

/-- Byte `k` of a number whose bit 0 is the least significant bit of the first byte. -/
def byteOfNat (w k : ℕ) : Byte := BitVec.ofNat 8 (w >>> (8 * k))

/-- The instruction the decoder reads from the low `nbits` bits of `w`, every higher bit of the longest frame being zero. -/
def decodeTableWord (nbits w : ℕ) : Option Instr :=
  if nbits < 8 then none
  else
    match decode Machine.params
        ((List.range (1 + Machine.params.lenRam)).map (byteOfNat (w % 2 ^ nbits))) with
    | .ok d => some d.instr
    | .error _ => none

/-- The first row at which an operation stands in the two hardwired programs (10_state.md R30), PROG_SF looked at first. -/
def slotOf (c : Config) (i : Instr) : Option (Mode × StepIndex) :=
  match i with
  | .validate => some (.singleFrequency, 0)
  | .init => some (.singleFrequency, 1)
  | .wrCfr1 => some (.singleFrequency, 2)
  | .wrArr => some (.singleFrequency, 3)
  | .wrCfr2 => some (.singleFrequency, 4)
  | .wrAsf => some (.singleFrequency, 5)
  | .wrFtw0 => some (.singleFrequency, 6)
  | .exit n => if n = 0 then some (.singleFrequency, 7) else none
  | .genRamtab .freq => some (.frequencyModulatedTone, 6)
  | .wrRam => some (.frequencyModulatedTone, 7)
  | .wrRscw .tone1 => some (.frequencyModulatedTone, 8)
  | .btone2 t => if t = 10 then some (.frequencyModulatedTone, 9) else none
  | .sleep ms => if ms = c.tToggleMs then some (.frequencyModulatedTone, 10) else none
  | .wrRscw .tone2 => some (.frequencyModulatedTone, 11)
  | .jmp t => if t = 10 then some (.frequencyModulatedTone, 14) else none
  | .genRamtab (.value _) => none
  | .encFtw _ | .encAsfRel _ | .encAsfDbm _ | .encAsfInt _ | .chkAsf | .genRscw _ => none
  | .xfer _ _ | .shiftByte _ | .strobe | .progSf | .progFm => none

end Sys2Proof
end

