-- ==== Sys2Proof/Machine/Bytes.lean ====
section
/-! DEFINITION. Byte lists of a value and bits of a byte (00_scope.md R8, R11). -/

namespace Sys2Proof.Machine

/-- `be_4(v)`: the four bytes of `v`, most significant first (R11, 20_memory.md R65). -/
def be4 (v : BitVec 32) : Vector Byte 4 :=
  #v[v.extractLsb' 24 8, v.extractLsb' 16 8, v.extractLsb' 8 8, v.extractLsb' 0 8]

/-- `be_2(v)` (R11). -/
def be2 (v : BitVec 16) : Vector Byte 2 :=
  #v[v.extractLsb' 8 8, v.extractLsb' 0 8]

/-- `le_2(v)`: least significant byte first (R11, 20_memory.md R65 for the address ramp rate). -/
def le2 (v : BitVec 16) : Vector Byte 2 :=
  #v[v.extractLsb' 0 8, v.extractLsb' 8 8]

/-- The bits of a byte in the order they go onto the wire: bit 7 first (30_encoding.md R90). -/
def bitsMsbFirst (b : Byte) : List Bool :=
  [b.getLsbD 7, b.getLsbD 6, b.getLsbD 5, b.getLsbD 4, b.getLsbD 3, b.getLsbD 2, b.getLsbD 1, b.getLsbD 0]

/-- The bit string of a frame (30_encoding.md R90): the instruction byte, then the payload bytes in order, each MSB first. -/
def frameBits (instr : Byte) (payload : List Byte) : List Bool :=
  (instr :: payload).flatMap bitsMsbFirst

end Sys2Proof.Machine
end

