-- ==== Sys2Proof/Machine/State.lean ====
section
/-! DEFINITION. The state of the block as plain data (10_state.md), its reset (R42), and the ways a step can stop. A register
that "holds no value" (R42) is an Option at `none`: that is the spec's own reset state (log entry 1). -/

namespace Sys2Proof.Machine

/-! ## Pins (10_state.md R36) -/

/-- The five pins (R36). -/
inductive Pin where
  | reset
  | cs
  | sclk
  | sdio
  | ioupdate
  deriving DecidableEq, Repr

/-- A pin's direction (R36): `in` before `Dir`, `out` after. -/
inductive Direction where
  | input
  | output
  deriving DecidableEq, Repr

/-- A pin latch's level (R36); `undriven` is the spec's `U`, "not yet driven by the block". -/
inductive Level where
  | undriven
  | low
  | high
  deriving DecidableEq, Repr

/-- The level a `Drive(p, l)` leaves (R12: `l` in 0, 1). -/
def Level.ofBool (l : Bool) : Level := if l then .high else .low

/-- One pin latch (R36). -/
structure PinLatch where
  dir : Direction
  level : Level
  deriving DecidableEq, Repr

/-- The five pin latches (R36). -/
structure Pins where
  reset : PinLatch
  cs : PinLatch
  sclk : PinLatch
  sdio : PinLatch
  ioupdate : PinLatch
  deriving DecidableEq, Repr

/-- A pin before INIT (R42, R333): direction `in`, level `U`. -/
def PinLatch.atReset : PinLatch := { dir := .input, level := .undriven }

/-- The pins at reset (R42). -/
def Pins.atReset : Pins :=
  { reset := .atReset, cs := .atReset, sclk := .atReset, sdio := .atReset, ioupdate := .atReset }

/-! ## Trace (10_state.md R40) -/

/-- The fatal causes that arise inside the block (60_exceptions.md R291). -/
inductive FatalCause where
  /-- `FreqRange` (R294). -/
  | freqRange
  /-- `AmpRange` (R295). -/
  | ampRange
  deriving DecidableEq, Repr

/-- What a `Diag` record names (R40, R291): a fatal cause or the one warning. -/
inductive DiagKind where
  | fatal (cause : FatalCause)
  /-- The warning `FreqHigh` (R298). -/
  | freqHigh
  deriving DecidableEq, Repr

/-- The records of `TRACE` (R40). -/
inductive Event where
  /-- `Dir(p)`: pin `p` becomes an output (R12). -/
  | dir (p : Pin)
  /-- `Drive(p, l)`: pin `p` is driven to level `l` (R12). -/
  | drive (p : Pin) (l : Bool)
  /-- `Sleep(ms)` (R12). -/
  | sleep (ms : ℕ)
  /-- `Diag(kind)`: a diagnostic on the error stream (R40). -/
  | diag (k : DiagKind)
  /-- `Trace(text)`: the verbose trace; its text is unspecified (R318). -/
  | trace (text : String)
  /-- `Exit(code)`, the terminal record (R40, R262). -/
  | exit (code : ℕ)
  deriving DecidableEq, Repr

/-! ## Registers -/

/-- The tag held by `LVL_KIND` (R21, R25). -/
inductive LvlKind where
  | rel
  | dbm
  | int
  deriving DecidableEq, Repr

/-- The one amplitude request held by `LVL_KIND` and `LVL` together (R25): the constructor is the tag, its argument the value,
a rational for REL and DBM and a natural number for INT (log entry 12). -/
inductive LevelRequest where
  | rel (db : ℚ)
  | dbm (dbm : ℚ)
  | int (n : ℕ)
  deriving DecidableEq, Repr

/-- The registers and buffers that an operation reads and that can hold no value (R42, R43), by the spec's names. -/
inductive RegName where
  | mode | freq | tone1 | tone2 | lvlKind | debug
  | asfRaw | ftwbuf | asfbuf | rscwbuf | rambuf
  deriving DecidableEq, Repr

/-- The state of the block (R20). -/
structure State where
  /-- `MODE` (R21, R22). -/
  mode : Option Mode
  /-- `FREQ`, Hz (R21, R23). -/
  freq : Option ℚ
  /-- `TONE1`, Hz (R21, R24). -/
  tone1 : Option ℚ
  /-- `TONE2`, Hz (R21, R24). -/
  tone2 : Option ℚ
  /-- `LVL_KIND` and `LVL` (R21, R25). -/
  level : Option LevelRequest
  /-- `DEBUG` (R21, R26). -/
  debug : Option Bool
  /-- `FTW`, 32 bits (R27). -/
  ftw : Option (BitVec 32)
  /-- `ASF_RAW`, a natural of no fixed width (R27). -/
  asfRaw : Option ℕ
  /-- `ASF`, 14 bits (R27). -/
  asf : Option (BitVec 14)
  /-- `ARATE`, 16 bits (R27). -/
  arate : Option (BitVec 16)
  /-- `FTWBUF`, 4 bytes (R28). -/
  ftwbuf : Option (Vector Byte 4)
  /-- `ASFBUF`, 2 bytes (R28). -/
  asfbuf : Option (Vector Byte 2)
  /-- `RSCWBUF`, 5 bytes (R28). -/
  rscwbuf : Option (Vector Byte 5)
  /-- `RAMBUF`, addresses 0 to 399 (R28, 20_memory.md R62): the bytes written so far, in canonical form. -/
  rambuf : List Host.Cell
  /-- `SHREG`, 8 bits (R29). -/
  shreg : Option Byte
  /-- `BITCNT`, 4 bits (R29). -/
  bitcnt : Option (BitVec 4)
  /-- `BYTEIDX` (R29). -/
  byteidx : Option ℕ
  /-- `XLEN` (R29). -/
  xlen : Option ℕ
  /-- `SEQ_PC`, 4 bits (R30). -/
  seqPc : StepIndex
  /-- `WARN_HI` (R33). -/
  warnHi : Bool
  /-- `HALTED` (R33). -/
  halted : Bool
  /-- `EXIT_CODE` (R33). -/
  exitCode : Option ℕ
  /-- The five pin latches (R36). -/
  pins : Pins
  /-- `TRACE` (R40), newest record first (log entry 24); `State.trace` reads it in the order performed. -/
  log : List Event
  /-- The MODEL's own counter of the free values taken so far; not the spec's (log entries 7, 8, 19). -/
  freeCount : ℕ
  deriving DecidableEq, Repr

/-- `TRACE` in the order performed (R40). -/
def State.trace (s : State) : List Event := s.log.reverse

/-- `LVL_KIND` (R21). -/
def State.lvlKind (s : State) : Option LvlKind :=
  match s.level with
  | none => none
  | some (.rel _) => some .rel
  | some (.dbm _) => some .dbm
  | some (.int _) => some .int

/-- `LVL` (R21): the argument of the chosen level option. -/
def State.lvl (s : State) : Option ℚ :=
  match s.level with
  | none => none
  | some (.rel d) => some d
  | some (.dbm p) => some p
  | some (.int n) => some n

/-- The state at power-on of the block, before the host has loaded anything (R42). -/
def State.reset : State where
  mode := none
  freq := none
  tone1 := none
  tone2 := none
  level := none
  debug := none
  ftw := none
  asfRaw := none
  asf := none
  arate := none
  ftwbuf := none
  asfbuf := none
  rscwbuf := none
  rambuf := []
  shreg := none
  bitcnt := none
  byteidx := none
  xlen := none
  seqPc := 0
  warnHi := false
  halted := false
  exitCode := none
  pins := .atReset
  log := []
  freeCount := 0

/-! ## How a step can stop -/

/-- Why the spec declines to give an operation a meaning for its inputs (00_scope.md R13, D21): the spec's refusal reasons. -/
inductive Reason where
  /-- `UnloadedRegister(name)` (10_state.md R43). -/
  | unloadedRegister (r : RegName)
  /-- `NegativeFrequency` (40_codecs.md R123). -/
  | negativeFrequency
  /-- `TuningWordOverflow` (40_codecs.md R123). -/
  | tuningWordOverflow
  /-- `NegativeTone` (41_tone_sweep.md R164). -/
  | negativeTone
  /-- `RampRateOverflow` (41_tone_sweep.md R164). -/
  | rampRateOverflow
  /-- `PinNotConfigured` (42_transport.md R191). -/
  | pinNotConfigured
  /-- `AddressOutOfRange` (20_memory.md R61, D21: of a read; of a write by log entry 29). -/
  | addressOutOfRange
  deriving DecidableEq, Repr

/-- The faults of the machine, both of `step` and of no instruction. SAFE: the model stops where the spec takes no step. -/
inductive Fault where
  /-- Raised by `step` when HALTED = 1: "the run is over; no further step is taken" (10_state.md R33). SAFE. -/
  | runOver
  /-- Raised by `step` at a `SEQ_PC` value marked "(no step)" (10_state.md R30), which no run reaches. SAFE. -/
  | noStep
  deriving DecidableEq, Repr

/-- The refusals. Each of the spec's refusals (00_scope.md R13) carries the state in which the refused run ended: HALTED is 1,
EXIT_CODE holds no value, nothing else of the refused operation took effect (10_state.md R31, R33; log entry 5). All SAFE:
they mark inputs about which no claim is made. -/
inductive Refusal where
  /-- An instruction that has no meaning in this model yet; raised by exec's refused arms only. SAFE. -/
  | notModelled (mnemonic : String)
  /-- A register or buffer that holds no value was read (R43); raised by every operation that reads one. SAFE. -/
  | unloadedRegister (r : RegName) (ended : State)
  /-- A negative frequency reached the tuning-word codec (R123); raised by ENC_FTW, WR_FTW0, GEN_RAMTAB. SAFE. -/
  | negativeFrequency (ended : State)
  /-- The tuning word does not fit 32 bits (R123); raised by ENC_FTW, WR_FTW0, GEN_RAMTAB. SAFE. -/
  | tuningWordOverflow (ended : State)
  /-- A negative tone (R164); raised by GEN_RSCW, WR_RSCW. SAFE. -/
  | negativeTone (ended : State)
  /-- The ramp rate does not fit 16 bits (R164); raised by GEN_RSCW, WR_RSCW. SAFE. -/
  | rampRateOverflow (ended : State)
  /-- A frame was sent with a pin still at direction `in` (R191); raised by XFER and the WR_* operations. SAFE. -/
  | pinNotConfigured (ended : State)
  /-- An access outside TONE_ROM or RAMBUF; raised by MemRead (R61, D21) and, by the model's choice (log entry 29), by
  MemWrite. SAFE. -/
  | addressOutOfRange (ended : State)
  deriving DecidableEq, Repr

end Sys2Proof.Machine
end

