-- ==== Sys2Proof/Machine/Operands.lean ====
section
/-! DEFINITION. The operand forms: reads of the registers and buffers (00_scope.md R11 `x[NAME]`). A register that holds no
value must not be read: the operation is refused (10_state.md R43). -/

namespace Sys2Proof.Machine

/-- A read of a register that may hold no value: "A register or buffer that holds no value must not be read", and the operation
"is refused with reason `UnloadedRegister(name)`" (R43; R21 for the operand registers; D21, D28, U21). -/
def readReg {α : Type} (name : RegName) (v : Option α) : Except Reason α :=
  match v with
  | some x => .ok x
  | none => .error (.unloadedRegister name)

/-- `x[MODE]`. -/
def State.readMode (s : State) : Except Reason Mode := readReg .mode s.mode

/-- `x[FREQ]`. -/
def State.readFreq (s : State) : Except Reason ℚ := readReg .freq s.freq

/-- `x[TONE2]`. -/
def State.readTone2 (s : State) : Except Reason ℚ := readReg .tone2 s.tone2

/-- `x[LVL_KIND]` and `x[LVL]`, read together (R25). -/
def State.readLevel (s : State) : Except Reason LevelRequest := readReg .lvlKind s.level

/-- `x[DEBUG]`. -/
def State.readDebug (s : State) : Except Reason Bool := readReg .debug s.debug

/-- `x[ASF_RAW]`. -/
def State.readAsfRaw (s : State) : Except Reason ℕ := readReg .asfRaw s.asfRaw

/-- `x[FTWBUF]`. -/
def State.readFtwbuf (s : State) : Except Reason (Vector Byte 4) := readReg .ftwbuf s.ftwbuf

/-- `x[ASFBUF]`. -/
def State.readAsfbuf (s : State) : Except Reason (Vector Byte 2) := readReg .asfbuf s.asfbuf

/-- `x[RSCWBUF]`. -/
def State.readRscwbuf (s : State) : Except Reason (Vector Byte 5) := readReg .rscwbuf s.rscwbuf

/-- The content of the tone register an operand names (43_register_frames.md R234). -/
def State.tone (s : State) (t : ToneReg) : Option ℚ :=
  match t with
  | .tone1 => s.tone1
  | .tone2 => s.tone2

/-- The spec's name of a tone register. -/
def toneName : ToneReg → RegName
  | .tone1 => .tone1
  | .tone2 => .tone2

/-- `x[t]` for the register operand of `WR_RSCW t` (R234). -/
def State.readTone (t : ToneReg) (s : State) : Except Reason ℚ := readReg (toneName t) (s.tone t)

/-- The carrier operand of `GEN_RAMTAB` (41_tone_sweep.md R170, 44_sequencer.md R258): a value, or `x[FREQ]`. -/
def State.readCarrier (k : Carrier) (s : State) : Except Reason ℚ :=
  match k with
  | .value hz => .ok hz
  | .freq => s.readFreq

end Sys2Proof.Machine
end

