-- ==== Sys2Proof/Machine/Ops.lean ====
section
/-! DEFINITION. The named operations over pins, trace, memory and the end of a run. Taking a fatal error is `raiseFatal`
(60_exceptions.md R296); there is no return from one (R301: "No return and no nesting"). -/

namespace Sys2Proof.Machine

/-! ## Pins -/

/-- The latch of a pin. -/
def Pins.get (p : Pin) (ps : Pins) : PinLatch :=
  match p with
  | .reset => ps.reset
  | .cs => ps.cs
  | .sclk => ps.sclk
  | .sdio => ps.sdio
  | .ioupdate => ps.ioupdate

/-- The latches with one replaced. -/
def Pins.set (p : Pin) (v : PinLatch) (ps : Pins) : Pins :=
  match p with
  | .reset => { ps with reset := v }
  | .cs => { ps with cs := v }
  | .sclk => { ps with sclk := v }
  | .sdio => { ps with sdio := v }
  | .ioupdate => { ps with ioupdate := v }

/-- What one event does to the pin latches (10_state.md R36): `Dir` sets a direction, `Drive` a level; the others do nothing. -/
def Pins.event (ps : Pins) (e : Event) : Pins :=
  match e with
  | .dir p => ps.set p { ps.get p with dir := .output }
  | .drive p l => ps.set p { ps.get p with level := .ofBool l }
  | .sleep _ | .diag _ | .trace _ | .exit _ => ps

/-- Every pin is an output (42_transport.md R191: "all five pins are outputs"). -/
def Pins.allOut (ps : Pins) : Bool :=
  ps.reset.dir == .output && ps.cs.dir == .output && ps.sclk.dir == .output
    && ps.sdio.dir == .output && ps.ioupdate.dir == .output

/-! ## Events -/

/-- Performs one event: the pins change and the event is appended to `TRACE` (00_scope.md R12, 10_state.md R40). -/
def State.perform (s : State) (e : Event) : State :=
  { s with pins := s.pins.event e, log := e :: s.log }

/-- `Dir(p)` (R12). -/
def State.setOut (s : State) (p : Pin) : State := s.perform (.dir p)

/-- `Drive(p, l)` (R12). -/
def State.drive (s : State) (p : Pin) (l : Bool) : State := s.perform (.drive p l)

/-- `Sleep(ms)`; "`Sleep(0)` emits no event" (R12). -/
def State.pause (s : State) (ms : ℕ) : State :=
  if ms = 0 then s else s.perform (.sleep ms)

/-! ## The address space RAMBUF (20_memory.md R60, R62) -/

/-- The size of RAMBUF in bytes (R62: "a byte-addressed buffer of 400 bytes"). -/
def rambufSize : ℕ := 400

/-- The byte at an address; an unlisted address holds no value (10_state.md R42). -/
def memGet (m : List Host.Cell) (a : ℕ) : Option Byte :=
  match m with
  | [] => none
  | (k, v) :: rest => if k = a then some v else memGet rest a

/-- Writes one byte, keeping the addresses strictly rising. -/
def memSet (m : List Host.Cell) (a : ℕ) (b : Byte) : List Host.Cell :=
  match m with
  | [] => [(a, b)]
  | (k, v) :: rest =>
    if a < k then (a, b) :: (k, v) :: rest
    else if a = k then (a, b) :: rest
    else (k, v) :: memSet rest a b

/-- Writes consecutive bytes. -/
def memSetBytes (m : List Host.Cell) (a : ℕ) (bs : List Byte) : List Host.Cell :=
  match bs with
  | [] => m
  | b :: rest => memSetBytes (memSet m a b) (a + 1) rest

/-- Every address is above a bound, and the addresses rise strictly. -/
def Memory.rising (bound : ℕ) (m : List Host.Cell) : Bool :=
  match m with
  | [] => true
  | (k, _) :: rest => decide (bound ≤ k) && Memory.rising (k + 1) rest

/-- The canonical form: addresses strictly rising and inside RAMBUF. An unlisted address reads as no value, so no entry can
equal what it reads as. -/
def Memory.wf (m : List Host.Cell) : Bool :=
  Memory.rising 0 m && m.all (fun c => decide (c.1 < rambufSize))

/-- Reads `n` consecutive bytes, refusing a byte that holds no value (R43). -/
def memGetBytes (m : List Host.Cell) (a : ℕ) (n : ℕ) : Except Reason (List Byte) :=
  match n with
  | 0 => .ok []
  | k + 1 =>
    match readReg .rambuf (memGet m a), memGetBytes m (a + 1) k with
    | .ok b, .ok bs => .ok (b :: bs)
    | .error e, _ => .error e
    | .ok _, .error e => .error e

/-- `MemRead(RAMBUF, addr, n)` (R11, R62), refused outside addresses 0 to 399 (D21: "`MemRead`: `AddressOutOfRange`"). -/
def State.ramRead (a n : ℕ) (s : State) : Except Reason (List Byte) :=
  if rambufSize < a + n then .error .addressOutOfRange else memGetBytes s.rambuf a n

/-- `MemWrite(RAMBUF, addr, n, v)` (R11, R62); `n` is the length of `v`. Refusing a write that reaches outside addresses 0 to 399
is the model's choice (log entry 29): R61 and D21 say it of reads only, and no operation makes such a write. -/
def State.ramWrite (a : ℕ) (v : List Byte) (s : State) : Except Reason State :=
  if rambufSize < a + v.length then .error .addressOutOfRange
  else .ok { s with rambuf := memSetBytes s.rambuf a v }

/-- `MemRead(TONE_ROM, i, 1)` (20_memory.md R61): entry `i` as a signed integer, refused outside 0 to 99. -/
def toneRomRead (c : Config) (i : ℕ) : Except Reason ℤ :=
  match c.toneTable[i]? with
  | some o => .ok o
  | none => .error .addressOutOfRange

/-! ## Ends of a run -/

/-- `raise Fatal(cause)` (60_exceptions.md R296): `Diag(cause)`, EXIT_CODE 1, HALTED 1, `Exit(1)`; nothing is saved and
SEQ_PC no longer changes. WARN_HI is unspecified on a fatal run (R300): a free value (log entry 7). -/
def raiseFatal (cause : FatalCause) (s : State) : State :=
  let t := (s.perform (.diag (.fatal cause)))
  { (({ t with exitCode := some 1, halted := true }).perform (.exit 1)) with
    warnHi := Config.freeWarnHi s.freeCount, freeCount := s.freeCount + 1 }

/-- `emit Warning(FreqHigh)` (R298): `Diag(FreqHigh)`, WARN_HI 1, and the run goes on. -/
def emitWarning (s : State) : State :=
  { s.perform (.diag .freqHigh) with warnHi := true }

/-- `Exit(c)` (44_sequencer.md R262): HALTED 1, EXIT_CODE `c`, the record `Exit(c)`; no pin event. -/
def exitRun (code : ℕ) (s : State) : State :=
  { s with halted := true, exitCode := some code }.perform (.exit code)

/-- The state in which a refused run ends (10_state.md R31, R33): HALTED 1, SEQ_PC unchanged, EXIT_CODE holds no value, no
`Exit` record. -/
def State.refusedEnd (s : State) : State := { s with halted := true, exitCode := none }

/-- The refusal of an operation that began in state `s`. -/
def Reason.refusal (r : Reason) (s : State) : Refusal :=
  match r with
  | .unloadedRegister n => .unloadedRegister n s.refusedEnd
  | .negativeFrequency => .negativeFrequency s.refusedEnd
  | .tuningWordOverflow => .tuningWordOverflow s.refusedEnd
  | .negativeTone => .negativeTone s.refusedEnd
  | .rampRateOverflow => .rampRateOverflow s.refusedEnd
  | .pinNotConfigured => .pinNotConfigured s.refusedEnd
  | .addressOutOfRange => .addressOutOfRange s.refusedEnd

/-- The outcome of an operation that began in state `s` (00_scope.md R13): a next state, or a refusal in which nothing else of
the operation took effect. -/
def finish (s : State) (r : Except Reason State) : Host.Outcome State Fault Refusal :=
  match r with
  | .ok t => .next t
  | .error e => .refused (e.refusal s)

/-- `pc <- SEQ_PC + 1` (10_state.md R31). -/
def State.advance (s : State) : State := { s with seqPc := s.seqPc + 1 }

/-- The `Trace(text)` record of verbose tracing (60_exceptions.md R318); the text is a free value at each place of TRACE
(log entry 9). -/
def State.verboseTrace (s : State) : State := s.perform (.trace (Config.freeTraceText s.log.length))

end Sys2Proof.Machine
end

