-- ==== Sys2Proof/Machine/Flags.lean ====
section
/-! DEFINITION. The flag computations of the block (10_state.md R33): the range tests behind the fatal causes and the
warning. There are no arithmetic flags (R33). -/

namespace Sys2Proof.Machine

/-- The carrier lies outside [FREQ_MIN, FREQ_MAX] (44_sequencer.md R252, R253; 60_exceptions.md R294). -/
def freqOutOfRange (c : Config) (f : ℚ) : Bool := decide (f < c.freqMin) || decide (c.freqMax < f)

/-- The unclipped amplitude exceeds ASF_MAX (40_codecs.md R134, 60_exceptions.md R295). -/
def ampOutOfRange (c : Config) (raw : ℕ) : Bool := decide (c.asfMax < raw)

/-- The set of fatal causes that hold, in the order of R252. -/
def fatalCauses (c : Config) (f : ℚ) (raw : ℕ) : List FatalCause :=
  (if freqOutOfRange c f then [.freqRange] else []) ++ (if ampOutOfRange c raw then [.ampRange] else [])

/-- The condition of the `FreqHigh` warning (10_state.md R33, 60_exceptions.md R298): FREQ_WARN < FREQ <= FREQ_MAX. -/
def freqHigh (c : Config) (f : ℚ) : Bool := decide (c.freqWarn < f) && decide (f ≤ c.freqMax)

/-- On a fatal run in the warning range, whether a `Diag(FreqHigh)` stands before the fatal one is unspecified
(60_exceptions.md R300, 95_test_vectors.md 6.2): a free value (log entry 7). -/
def maybeWarnDiag (c : Config) (f : ℚ) (s : State) : State :=
  if freqHigh c f && Config.freeWarnDiag s.freeCount then s.perform (.diag .freqHigh) else s

/-- "raise Fatal(c) for some c in causes" (R252, R300): with two causes the choice is a free value (log entry 7). -/
def raiseSome (first : FatalCause) (others : List FatalCause) (s : State) : State :=
  match others with
  | [] => raiseFatal first s
  | second :: _ => raiseFatal (if Config.freeFirstCause s.freeCount then first else second) s

end Sys2Proof.Machine
end

