-- ==== Sys2Proof/Machine/Rounding.lean ====
section
/-! DEFINITION. The rounding functions (00_scope.md R10) and the exact integer evaluation of the decibel formula
(40_codecs.md R131, R137). -/

namespace Sys2Proof

/-- A rounding function applied to a rational (R10). -/
def Rounding.apply (r : Rounding) (x : ℚ) : ℤ :=
  match r with
  | .floor => x.floor
  | .rne0 => if 0 ≤ x then (x + 1 / 2).floor else -((-x + 1 / 2).floor)

end Sys2Proof

namespace Sys2Proof.Machine

/-- Whether `n` is at most the rounding of `k * 10^(p/q)` (R137): for nearest, `n - 1/2 <= k * 10^(p/q)`, that is
`(2n-1)^q <= (2k)^q * 10^p` for `n >= 1`; for floor, `n^q <= k^q * 10^p`. A negative `p` moves its power of ten to the
other side, so that both sides are natural numbers. -/
def decibelAtLeast (r : Rounding) (k : ℕ) (p : ℤ) (q : ℕ) (n : ℕ) : Bool :=
  match r with
  | .floor => decide (n ^ q * 10 ^ (-p).toNat ≤ k ^ q * 10 ^ p.toNat)
  | .rne0 => decide ((2 * n - 1) ^ q * 10 ^ (-p).toNat ≤ (2 * k) ^ q * 10 ^ p.toNat)

/-- The greatest `n` below `acc + 2^bits` with `acc <= n` for which the test holds, found bit by bit from the top. -/
def greatestBelow (test : ℕ → Bool) : ℕ → ℕ → ℕ
  | 0, acc => acc
  | bits + 1, acc =>
    if test (acc + 2 ^ bits) then greatestBelow test bits (acc + 2 ^ bits)
    else greatestBelow test bits acc

/-- `round(10^(d/20) * k)` for a rational level `d` in dB, exactly (R131 with `k` = ASF_MAX, evaluated by R137 with `d/20`
in lowest terms, so that no transcendental function is needed: R141). -/
def decibelScale (r : Rounding) (k : ℕ) (d : ℚ) : ℕ :=
  let e := d / 20
  greatestBelow (decibelAtLeast r k e.num e.den) (k.log2 + 1 + 4 * (e.num.toNat / e.den + 1)) 0

end Sys2Proof.Machine
end

