-- ==== Sys2Proof/Machine/Codecs.lean ====
section
/-! DEFINITION. The tuning-word codec and the amplitude codec (40_codecs.md): ENC_FTW, ENC_ASF_REL, ENC_ASF_DBM, ENC_ASF_INT,
CHK_ASF. The operations take the configuration; the meanings run them at `params`. None of them is a program row of its
own, so none moves SEQ_PC (log entry 14). -/

namespace Sys2Proof.Machine

/-- The rounded tuning word `RND_FTW(f * 2^32 / SYSFREQ)` as an integer (R121, R122). -/
def tuningWord (c : Config) (f : ℚ) : ℤ := c.rndFtw.apply (f * 2 ^ c.ftwBits / c.sysfreq)

/-- `ENC_FTW(f)` (R121, R123, R127). -/
def encFtw (c : Config) (f : ℚ) (s : State) : Except Reason State :=
  if f < 0 then .error .negativeFrequency
  else if 2 ^ c.ftwBits ≤ tuningWord c f then .error .tuningWordOverflow
  else
    let w := BitVec.ofInt 32 (tuningWord c f)
    let t := { s with ftw := some w, ftwbuf := some (be4 w) }
    match s.readDebug with
    | .error e => .error e
    | .ok true => .ok t.verboseTrace
    | .ok false => .ok t

/-- `DEC_FTW` (R124): "a test function only; the block has no decoder". -/
def decFtw (c : Config) (b : Vector Byte 4) : ℚ :=
  ((b[0].toNat * 2 ^ 24 + b[1].toNat * 2 ^ 16 + b[2].toNat * 2 ^ 8 + b[3].toNat : ℕ) : ℚ) * c.sysfreq / 2 ^ 32

/-- `ENC_ASF_REL(d)` (R131). -/
def encAsfRel (c : Config) (d : ℚ) (s : State) : State :=
  { s with asfRaw := some (decibelScale c.rndAsf c.asfMax d) }

/-- `ENC_ASF_DBM(p)` (R132). -/
def encAsfDbm (c : Config) (p : ℚ) (s : State) : State := encAsfRel c (p - c.pMaxDbm) s

/-- `ENC_ASF_INT(n)` (R133). -/
def encAsfInt (n : ℕ) (s : State) : State := { s with asfRaw := some n }

/-- `ASF` and `ASFBUF` for an amplitude that passed the check (R134, R135). -/
def storeAsf (raw : ℕ) (s : State) : State :=
  let a := BitVec.ofNat 14 raw
  { s with asf := some a, asfbuf := some (be2 (a.setWidth 16)) }

/-- `CHK_ASF` (R134). -/
def chkAsf (c : Config) (s : State) : Except Reason State :=
  match s.readAsfRaw with
  | .error e => .error e
  | .ok raw => if ampOutOfRange c raw then .ok (raiseFatal .ampRange s) else .ok (storeAsf raw s)

/-- ENC_FTW (R121). -/
def execEncFtw (f : ℚ) (s : State) : Host.Outcome State Fault Refusal := finish s (encFtw params f s)

/-- ENC_ASF_REL (R131). -/
def execEncAsfRel (d : ℚ) (s : State) : Host.Outcome State Fault Refusal := .next (encAsfRel params d s)

/-- ENC_ASF_DBM (R132). -/
def execEncAsfDbm (p : ℚ) (s : State) : Host.Outcome State Fault Refusal := .next (encAsfDbm params p s)

/-- ENC_ASF_INT (R133). -/
def execEncAsfInt (n : ℕ) (s : State) : Host.Outcome State Fault Refusal := .next (encAsfInt n s)

/-- CHK_ASF (R134). -/
def execChkAsf (s : State) : Host.Outcome State Fault Refusal := finish s (chkAsf params s)

end Sys2Proof.Machine
end

