-- ==== Sys2Proof/Machine/ToneSweep.lean ====
section
/-! DEFINITION. The tone-sweep generator (41_tone_sweep.md): GEN_RSCW and GEN_RAMTAB. -/

namespace Sys2Proof.Machine

/-- The tone with the default substituted (R161): "if the caller supplies 0, substitute a default of 1000 Hz". -/
def effectiveTone (c : Config) (t : ℚ) : ℚ := if t = 0 then c.toneDefault else t

/-- The rounded address ramp rate `RND_RATE(RATE_NUM / t)` as an integer (R162, R163). -/
def rampRate (c : Config) (t : ℚ) : ℤ := c.rndRate.apply ((c.rateNum : ℚ) / effectiveTone c t)

/-- The five bytes of the ramp-sweep control word (R162, 30_encoding.md R94): the rate, least significant byte first, then the tail. -/
def rscwBytes (c : Config) (r : BitVec 16) : Vector Byte 5 := (le2 r) ++ c.rscwTail

/-- `GEN_RSCW(t)` (R162, R164). -/
def genRscw (c : Config) (t : ℚ) (s : State) : Except Reason State :=
  if t < 0 then .error .negativeTone
  else if 65535 < rampRate c t then .error .rampRateOverflow
  else
    let r := BitVec.ofInt 16 (rampRate c t)
    .ok { s with arate := some r, rscwbuf := some (rscwBytes c r) }

/-- One slot of the RAM table (R170): `TONE_ROM[i]` is added to the carrier in Hz (R168), the sum is encoded, and the four
bytes go to `RAMBUF[4i .. 4i+3]`. -/
def ramtabEntry (c : Config) (carrier : ℚ) (s : State) (i : ℕ) : Except Reason State := do
  let o ← toneRomRead c i
  let t ← encFtw c (carrier + o) s
  let w ← t.readFtwbuf
  t.ramWrite (4 * i) w.toList

/-- `GEN_RAMTAB(c)` (R170): the slots 0 to 99 in order; a refusal of any one refuses the whole operation (R172). -/
def genRamtab (c : Config) (carrier : ℚ) (s : State) : Except Reason State :=
  (List.range c.nTab).foldlM (ramtabEntry c carrier) s

/-- GEN_RSCW (R162). -/
def execGenRscw (t : ℚ) (s : State) : Host.Outcome State Fault Refusal := finish s (genRscw params t s)

/-- GEN_RAMTAB as row 6 of PROG_FM (44_sequencer.md R258): the table of R170, "followed by `pc <- 7`". -/
def execGenRamtab (k : Carrier) (s : State) : Host.Outcome State Fault Refusal :=
  finish s (do
    let carrier ← s.readCarrier k
    let t ← genRamtab params carrier s
    pure { t with seqPc := 7 })

end Sys2Proof.Machine
end

