-- ==== Sys2Proof/Machine/Transport.lean ====
section
/-! DEFINITION. The bit-serial transport (42_transport.md): XFER and its parts SHIFT_BYTE and STROBE. -/

namespace Sys2Proof.Machine

/-- The bit loop of SHIFT_BYTE (R194) for `n` bits still to send of the shift register's content `b`: data first, then the
clock pulse, then the shift; SHREG and BITCNT follow. -/
def shiftBits (n : ℕ) (b : Byte) (s : State) : State :=
  match n with
  | 0 => s
  | k + 1 =>
    let t := ((s.drive .sdio (b.getLsbD 7)).drive .sclk true).drive .sclk false
    shiftBits k (b <<< 1) { t with shreg := some (b <<< 1), bitcnt := some (BitVec.ofNat 4 k) }

/-- `SHIFT_BYTE(b)` (R194). -/
def shiftByte (b : Byte) (s : State) : State :=
  shiftBits 8 b { s with shreg := some b, bitcnt := some 8 }

/-- The payload loop of XFER (R192, step 3), from payload index `j` on. -/
def shiftPayload (j : ℕ) (payload : List Byte) (s : State) : State :=
  match payload with
  | [] => s
  | b :: rest => shiftPayload (j + 1) rest (shiftByte b { s with byteidx := some j })

/-- `STROBE` (R196): the pulse on IOUPDATE with its three delays. -/
def strobe (c : Config) (s : State) : State :=
  ((((s.pause c.tStrobePreMs).drive .ioupdate true).pause c.tStrobeHighMs).drive .ioupdate false).pause c.tStrobePostMs

/-- Outside an XFER the contents of the transport registers are unspecified (10_state.md R29): free values (log entry 8). -/
def State.releaseTransport (s : State) : State :=
  { s with
    shreg := some (Config.freeShreg s.freeCount)
    bitcnt := some (Config.freeBitcnt s.freeCount)
    byteidx := some (Config.freeByteidx s.freeCount)
    xlen := some (Config.freeXlen s.freeCount)
    freeCount := s.freeCount + 1 }

/-- The five steps of `XFER(I, D)` (R192): chip-select active, the instruction byte, the payload bytes, the strobe; chip-select
is not driven back (R199). -/
def xferSteps (c : Config) (instr : Byte) (payload : List Byte) (s : State) : State :=
  strobe c (shiftPayload 0 payload
    (shiftByte instr ({ s with xlen := some payload.length }.drive .cs c.csActive)))

/-- `XFER(I, D)` (R192), refused with a pin still at direction `in` (R191). -/
def xfer (c : Config) (instr : Byte) (payload : List Byte) (s : State) : Except Reason State :=
  if s.pins.allOut then .ok (xferSteps c instr payload s).releaseTransport else .error .pinNotConfigured

/-- XFER (R192). -/
def execXfer (instr : Byte) (payload : List Byte) (s : State) : Host.Outcome State Fault Refusal :=
  finish s (xfer params instr payload s)

/-- SHIFT_BYTE (R194). -/
def execShiftByte (b : Byte) (s : State) : Host.Outcome State Fault Refusal := .next (shiftByte b s)

/-- STROBE (R196). -/
def execStrobe (s : State) : Host.Outcome State Fault Refusal := .next (strobe params s)

/-! ## The events of a frame, in closed form -/

/-- The three events of one bit (R194). -/
def bitEvents (v : Bool) : List Event := [.drive .sdio v, .drive .sclk true, .drive .sclk false]

/-- A `Sleep(ms)` as a list of events; none for 0 (00_scope.md R12). -/
def pauseEvents (ms : ℕ) : List Event := if ms = 0 then [] else [.sleep ms]

/-- The events of STROBE (R196). -/
def strobeEvents (c : Config) : List Event :=
  pauseEvents c.tStrobePreMs ++ [.drive .ioupdate true] ++ pauseEvents c.tStrobeHighMs
    ++ [.drive .ioupdate false] ++ pauseEvents c.tStrobePostMs

/-- The events of one frame (R192 to R196): chip-select, one clock pulse per bit of the frame in the order of
30_encoding.md R90, the strobe. -/
def frameEvents (c : Config) (instr : Byte) (payload : List Byte) : List Event :=
  .drive .cs c.csActive :: ((frameBits instr payload).flatMap bitEvents ++ strobeEvents c)

end Sys2Proof.Machine
end

