-- ==== Sys2Proof/Machine/Frames.lean ====
section
/-! DEFINITION. The seven register-write operations (43_register_frames.md). Each expands to exactly one XFER (R220) and, as a
program row, ends with `pc <- SEQ_PC + 1` (10_state.md R31). -/

namespace Sys2Proof.Machine

/-- A register-write row: one frame, then the advance of SEQ_PC (R220, R31). -/
def sendFrame (c : Config) (instr : Byte) (payload : List Byte) (s : State) : Except Reason State :=
  (xfer c instr payload s).map State.advance

/-- The CFR1 payload of a mode (R222): `CFR1_BASE`, OR-ed bytewise with `CFR1_RAM_EN` in FM-tone mode. -/
def cfr1Payload (c : Config) (m : Mode) : List Byte :=
  match m with
  | .frequencyModulatedTone => List.zipWith (· ||| ·) c.cfr1Base c.cfr1RamEn
  | .singleFrequency => c.cfr1Base

/-- `WR_CFR1` (R222). -/
def wrCfr1 (c : Config) (s : State) : Except Reason State := do
  let m ← s.readMode
  sendFrame c c.addrCfr1 (cfr1Payload c m) s

/-- `WR_ARR` (R224). -/
def wrArr (c : Config) (s : State) : Except Reason State := sendFrame c c.addrArr c.arrPayload s

/-- `WR_CFR2` (R226). -/
def wrCfr2 (c : Config) (s : State) : Except Reason State := sendFrame c c.addrCfr2 c.cfr2Payload s

/-- `WR_ASF` (R228). -/
def wrAsf (c : Config) (s : State) : Except Reason State := do
  let b ← s.readAsfbuf
  sendFrame c c.addrAsf b.toList s

/-- `WR_FTW0` (R230). -/
def wrFtw0 (c : Config) (s : State) : Except Reason State := do
  let f ← s.readFreq
  let t ← encFtw c f s
  let b ← t.readFtwbuf
  sendFrame c c.addrFtw0 b.toList t

/-- `WR_RAM` (R232): the whole table in one frame. -/
def wrRam (c : Config) (s : State) : Except Reason State := do
  let bs ← s.ramRead 0 c.lenRam
  sendFrame c c.addrRam bs s

/-- `WR_RSCW t` (R234). -/
def wrRscw (c : Config) (r : ToneReg) (s : State) : Except Reason State := do
  let hz ← s.readTone r
  let t ← genRscw c hz s
  let b ← t.readRscwbuf
  sendFrame c c.addrRscw b.toList t

/-- WR_CFR1 (R222). -/
def execWrCfr1 (s : State) : Host.Outcome State Fault Refusal := finish s (wrCfr1 params s)

/-- WR_ARR (R224). -/
def execWrArr (s : State) : Host.Outcome State Fault Refusal := finish s (wrArr params s)

/-- WR_CFR2 (R226). -/
def execWrCfr2 (s : State) : Host.Outcome State Fault Refusal := finish s (wrCfr2 params s)

/-- WR_ASF (R228). -/
def execWrAsf (s : State) : Host.Outcome State Fault Refusal := finish s (wrAsf params s)

/-- WR_FTW0 (R230). -/
def execWrFtw0 (s : State) : Host.Outcome State Fault Refusal := finish s (wrFtw0 params s)

/-- WR_RAM (R232). -/
def execWrRam (s : State) : Host.Outcome State Fault Refusal := finish s (wrRam params s)

/-- WR_RSCW t (R234). -/
def execWrRscw (t : ToneReg) (s : State) : Host.Outcome State Fault Refusal := finish s (wrRscw params t s)

end Sys2Proof.Machine
end

