-- ==== Sys2Proof/Machine/Sequencer.lean ====
section
/-! DEFINITION. The sequencer's own operations (44_sequencer.md): VALIDATE, INIT, BTONE2, SLEEP, JMP, EXIT. -/

namespace Sys2Proof.Machine

/-- The amplitude conversion the level tag selects (R252, 40_codecs.md R130). -/
def convertLevel (c : Config) (l : LevelRequest) (s : State) : State :=
  match l with
  | .rel d => encAsfRel c d s
  | .dbm p => encAsfDbm c p s
  | .int n => encAsfInt n s

/-- `VALIDATE` (R252): convert the amplitude, test both ranges, raise a fatal error for some cause that holds, else warn if
the carrier is high, store the amplitude and go on at row 1. -/
def validate (c : Config) (s : State) : Except Reason State := do
  let l ← s.readLevel
  let t := convertLevel c l s
  let f ← t.readFreq
  let raw ← t.readAsfRaw
  match fatalCauses c f raw with
  | first :: others => pure (raiseSome first others (maybeWarnDiag c f t))
  | [] =>
    let u ← chkAsf c (if c.freqWarn < f then emitWarning t else t)
    pure { u with seqPc := 1 }

/-- `INIT` (R254, R255): all five pins become outputs, reset asserted, idle levels, reset released, row 2. SDIO is not driven. -/
def initPins (c : Config) (s : State) : State :=
  let outputs := ((((s.setOut .reset).setOut .cs).setOut .sclk).setOut .sdio).setOut .ioupdate
  let idle := (((outputs.drive .reset c.resetActive).drive .cs (!c.csActive)).drive .ioupdate false).drive .sclk false
  { (idle.pause c.tResetMs).drive .reset (!c.resetActive) with seqPc := 2 }

/-- `BTONE2 t` (R259). -/
def btone2 (t : StepIndex) (s : State) : Except Reason State := do
  let hz ← s.readTone2
  pure (if 0 < hz then { s with seqPc := t } else exitRun 0 s)

/-- VALIDATE (R252). -/
def execValidate (s : State) : Host.Outcome State Fault Refusal := finish s (validate params s)

/-- INIT (R254). -/
def execInit (s : State) : Host.Outcome State Fault Refusal := .next (initPins params s)

/-- BTONE2 t (R259). -/
def execBtone2 (t : StepIndex) (s : State) : Host.Outcome State Fault Refusal := finish s (btone2 t s)

/-- SLEEP ms (R261): one `Sleep(ms)`, then `pc <- SEQ_PC + 1`. -/
def execSleep (ms : ℕ) (s : State) : Host.Outcome State Fault Refusal := .next (s.pause ms).advance

/-- JMP t (R261): `pc <- t`, no event. -/
def execJmp (t : StepIndex) (s : State) : Host.Outcome State Fault Refusal := .next { s with seqPc := t }

/-- EXIT c (R262). -/
def execExit (code : ℕ) (s : State) : Host.Outcome State Fault Refusal := .next (exitRun code s)

end Sys2Proof.Machine
end

