-- ==== Sys2Proof/Machine/Programs.lean ====
section
/-! DEFINITION. The two hardwired programs (10_state.md R30), as the table a step is fetched from, and as the macros PROG_SF and
PROG_FM (44_sequencer.md R257, R258), which run their listed rows once through. -/

namespace Sys2Proof.Machine

/-- The row of a program at a step index (R30); `none` is "(no step)". -/
def program (c : Config) (m : Mode) (pc : StepIndex) : Option Instr :=
  match m, pc.toNat with
  | _, 0 => some .validate
  | _, 1 => some .init
  | _, 2 => some .wrCfr1
  | _, 3 => some .wrArr
  | _, 4 => some .wrCfr2
  | _, 5 => some .wrAsf
  | .singleFrequency, 6 => some .wrFtw0
  | .singleFrequency, 7 => some (.exit 0)
  | .singleFrequency, _ => none
  | .frequencyModulatedTone, 6 => some (.genRamtab .freq)
  | .frequencyModulatedTone, 7 => some .wrRam
  | .frequencyModulatedTone, 8 => some (.wrRscw .tone1)
  | .frequencyModulatedTone, 9 => some (.btone2 10)
  | .frequencyModulatedTone, 10 => some (.sleep c.tToggleMs)
  | .frequencyModulatedTone, 11 => some (.wrRscw .tone2)
  | .frequencyModulatedTone, 12 => some (.sleep c.tToggleMs)
  | .frequencyModulatedTone, 13 => some (.wrRscw .tone1)
  | .frequencyModulatedTone, 14 => some (.jmp 10)
  | .frequencyModulatedTone, _ => none

/-- Runs listed rows in order until one halts the run or does not answer a next state (R33: "no further step is taken"). That
HALTED is tested after each row and not before the first, so that a macro performed with HALTED already 1 performs its first
row, is the model's choice (log entry 15): `step` never performs one there. -/
def runRows (rows : List (State → Host.Outcome State Fault Refusal)) (s : State) : Host.Outcome State Fault Refusal :=
  match rows with
  | [] => .next s
  | row :: rest =>
    match row s with
    | .next t => if t.halted then .next t else runRows rest t
    | .fault e => .fault e
    | .refused e => .refused e

/-- The rows 0 to 7 of PROG_SF (R30, R257). -/
def progSfRows : List (State → Host.Outcome State Fault Refusal) :=
  [execValidate, execInit, execWrCfr1, execWrArr, execWrCfr2, execWrAsf, execWrFtw0, execExit 0]

/-- The rows 0 to 14 of PROG_FM (R30, R258 to R260). -/
def progFmRows : List (State → Host.Outcome State Fault Refusal) :=
  [execValidate, execInit, execWrCfr1, execWrArr, execWrCfr2, execWrAsf, execGenRamtab .freq, execWrRam,
   execWrRscw .tone1, execBtone2 10, execSleep params.tToggleMs, execWrRscw .tone2, execSleep params.tToggleMs,
   execWrRscw .tone1, execJmp 10]

/-- PROG_SF (R257): the macro for rows 0 to 7, entered at SEQ_PC 0 (70_reset_and_hazards.md R331; log entry 15). -/
def execProgSf (s : State) : Host.Outcome State Fault Refusal := runRows progSfRows { s with seqPc := 0 }

/-- PROG_FM (R258): the macro for rows 0 to 14, entered at SEQ_PC 0. With a second tone it ends after `JMP 10`, at row 10 of
the unbounded loop (R260), which `step` goes on with (log entry 15). -/
def execProgFm (s : State) : Host.Outcome State Fault Refusal := runRows progFmRows { s with seqPc := 0 }

end Sys2Proof.Machine
end

