-- ==== Sys2Proof/Machine/Dispatch.lean ====
section
/-! DEFINITION. The dispatch: one arm per constructor of Instr, each a direct call of its meaning. -/

namespace Sys2Proof.Machine

def exec (i : Instr) (s : State) : Host.Outcome State Fault Refusal :=
  match i with
  | .wrCfr1 => Sys2Proof.Machine.execWrCfr1 s
  | .wrArr => Sys2Proof.Machine.execWrArr s
  | .wrCfr2 => Sys2Proof.Machine.execWrCfr2 s
  | .wrAsf => Sys2Proof.Machine.execWrAsf s
  | .wrFtw0 => Sys2Proof.Machine.execWrFtw0 s
  | .wrRam => Sys2Proof.Machine.execWrRam s
  | .wrRscw t => Sys2Proof.Machine.execWrRscw t s
  | .encFtw f => Sys2Proof.Machine.execEncFtw f s
  | .encAsfRel d => Sys2Proof.Machine.execEncAsfRel d s
  | .encAsfDbm p => Sys2Proof.Machine.execEncAsfDbm p s
  | .encAsfInt n => Sys2Proof.Machine.execEncAsfInt n s
  | .chkAsf => Sys2Proof.Machine.execChkAsf s
  | .genRscw t => Sys2Proof.Machine.execGenRscw t s
  | .genRamtab c => Sys2Proof.Machine.execGenRamtab c s
  | .xfer b d => Sys2Proof.Machine.execXfer b d s
  | .shiftByte b => Sys2Proof.Machine.execShiftByte b s
  | .strobe => Sys2Proof.Machine.execStrobe s
  | .validate => Sys2Proof.Machine.execValidate s
  | .init => Sys2Proof.Machine.execInit s
  | .btone2 t => Sys2Proof.Machine.execBtone2 t s
  | .sleep ms => Sys2Proof.Machine.execSleep ms s
  | .jmp t => Sys2Proof.Machine.execJmp t s
  | .exit c => Sys2Proof.Machine.execExit c s
  | .progSf => Sys2Proof.Machine.execProgSf s
  | .progFm => Sys2Proof.Machine.execProgFm s

end Sys2Proof.Machine
end

