-- ==== Sys2Proof/Machine/Step.lean ====
section
/-! DEFINITION. One step of the sequencer (44_sequencer.md R251): the row of the program that MODE selects, at SEQ_PC; and the
placing of one operation where the next step fetches it. -/

namespace Sys2Proof.Machine

/-- The row the next step runs: the program selected by MODE, at SEQ_PC (R251, 10_state.md R30). -/
def fetch (c : Config) (s : State) : Option Instr := s.mode.bind (fun m => program c m s.seqPc)

/-- One step (R251): none once HALTED (10_state.md R33), else the row at SEQ_PC of the program selected by MODE; a MODE
the host has not loaded cannot be read (R43). -/
def step (s : State) : Host.Outcome State Fault Refusal :=
  if s.halted then .fault .runOver
  else
    match s.mode with
    | none => .refused ((Reason.unloadedRegister .mode).refusal s)
    | some m =>
      match program params m s.seqPc with
      | none => .fault .noStep
      | some i => exec i s

/-- The state in which the next step runs a given operation: MODE selects the program in which it stands, SEQ_PC its row, and
the run is not over. There is no instruction memory to store into (10_state.md R39; log entry 3). -/
def State.placeInstr (s : State) (i : Instr) : State :=
  match slotOf params i with
  | some (m, pc) => { s with mode := some m, seqPc := pc, halted := false }
  | none => s

/-- `s` with the operation whose instruction byte `w` holds placed where the next step fetches it. -/
def State.withFetchWord (s : State) (nbits w : ℕ) : State :=
  match decodeTableWord nbits w with
  | some i => s.placeInstr i
  | none => s

end Sys2Proof.Machine
end

