-- ==== Sys2Proof/Machine/HostLoad.lean ====
section
/-! DEFINITION. What the host does before a run (30_encoding.md R101, 44_sequencer.md R251): it loads the operand registers.
No step of the block does this (10_state.md R21: "no operation of the block writes any of them"). -/

namespace Sys2Proof.Machine

/-- A synthesis intent as the host states it, one field per option of R101; `none` is an option not given. `verbosity` lists
the `--debug` (true) and `--brief` (false) options in the order given. Parsing text is out of scope (00_scope.md R4). -/
structure Request where
  mode : Option Mode
  freq : Option ℚ
  tone : Option ℚ
  tone2 : Option ℚ
  level : Option LevelRequest
  verbosity : List Bool
  deriving DecidableEq, Repr

/-- The host loads the operand registers, with the defaults of R42 where an option is not given: MODE SingleFrequency (R22),
TONE1 and TONE2 0 (R24, D22), DEBUG 0; of `--debug` and `--brief` the "last one wins" (R101). FREQ and the level have no
default: not given, they hold no value. -/
def State.hostLoad (s : State) (r : Request) : State :=
  { s with
    mode := some (r.mode.getD .singleFrequency)
    freq := r.freq
    tone1 := some (r.tone.getD 0)
    tone2 := some (r.tone2.getD 0)
    level := r.level
    debug := some (r.verbosity.getLastD false) }

/-- The start of a run (R251): the reset state with the operand registers loaded. -/
def State.start (r : Request) : State := State.reset.hostLoad r

end Sys2Proof.Machine
end

