-- ==== Sys2Proof/Machine/Observer.lean ====
section
/-! DEFINITION. The observer rule (20_memory.md R66): how the frames are recovered from the pin trace, and with it `FRAMES`
(10_state.md R41). The chip itself is outside the model. -/

namespace Sys2Proof.Machine

/-- A frame: the pair `(I, D)` of R41. -/
structure Frame where
  instr : Byte
  payload : List Byte
  deriving DecidableEq, Repr

/-- What the observer has seen: the pin levels, the bits of the byte in progress (`acc`, `count` of them), the whole bytes
since the last strobe pulse or INIT (newest first), the frame whose pulse is in progress, and the frames committed (newest first). -/
structure Observer where
  pins : Pins
  acc : Byte
  count : ℕ
  bytes : List Byte
  staged : Option Frame
  done : List Frame
  deriving DecidableEq, Repr

/-- The observer before any event. -/
def Observer.start : Observer :=
  { pins := .atReset, acc := 0, count := 0, bytes := [], staged := none, done := [] }

/-- One sampled bit: "bits are collected most significant first into bytes" (R66). -/
def Observer.sample (o : Observer) (v : Bool) : Observer :=
  let acc := (o.acc <<< 1) ||| (if v then 1 else 0)
  if o.count = 7 then { o with acc := 0, count := 0, bytes := acc :: o.bytes }
  else { o with acc := acc, count := o.count + 1 }

/-- The bytes since the last pulse or INIT as a frame: "the first byte … is the instruction byte and the following bytes … are its
payload" (R66). No byte, no frame. -/
def Observer.frameOf (bytesNewestFirst : List Byte) : Option Frame :=
  match bytesNewestFirst.reverse with
  | [] => none
  | i :: d => some { instr := i, payload := d }

/-- One event (R66): a rising edge of SCLK while CS is active samples SDIO; the rise of IOUPDATE closes the bytes collected,
its fall commits the frame. After INIT the next byte is an instruction byte (R66: "or after `INIT`"), so what was collected and
not committed is dropped; that the observer knows INIT by the release of RESET, its last event, is the model's choice (log
entry 21), as is what it does with the bits of an incomplete byte at a strobe. -/
def Observer.event (c : Config) (o : Observer) (e : Event) : Observer :=
  let seen := { o with pins := o.pins.event e }
  match e with
  | .drive .sclk true =>
    if o.pins.cs.level = .ofBool c.csActive ∧ o.pins.sclk.level = .low then
      match o.pins.sdio.level with
      | .undriven => seen
      | .low => seen.sample false
      | .high => seen.sample true
    else seen
  | .drive .ioupdate true =>
    if o.pins.ioupdate.level = .high then seen
    else { seen with acc := 0, count := 0, bytes := [], staged := Observer.frameOf o.bytes }
  | .drive .ioupdate false =>
    if o.pins.ioupdate.level = .high then { seen with staged := none, done := o.staged.toList ++ o.done } else seen
  | .drive .reset l => if l = c.resetActive then seen else { seen with acc := 0, count := 0, bytes := [] }
  | _ => seen

/-- The observer after a trace. -/
def observe (c : Config) (trace : List Event) : Observer := trace.foldl (Observer.event c) .start

/-- `FRAMES`: the frames an observer recovers from a trace, in order (R41, R66). -/
def framesOf (c : Config) (trace : List Event) : List Frame := (observe c trace).done.reverse

/-- `FRAMES` of a state (R41). -/
def State.frames (s : State) : List Frame := framesOf params s.trace

/-- The number of `Drive(SCLK, 1)` events, the clock pulses of a trace (42_transport.md R195, R197). -/
def clockPulses (trace : List Event) : ℕ := (trace.filter (· == .drive .sclk true)).length

end Sys2Proof.Machine
end

