-- ==== Sys2Proof/Safety.lean ====
section
/-! DEFINITION. What counts as a safe run, in the terms the statements use: the hazards of 70_reset_and_hazards.md section 3 as
a check on a trace, the invariants of the state, and how a run ends (44_sequencer.md R264, R265). -/

namespace Sys2Proof.Machine

/-! ## Hazards -/

/-- An event is allowed at these pin levels: no SDIO change while SCLK is 1 (R340), and no Drive of SCLK, SDIO or CS while the
strobe is high (R341). -/
def eventAllowed (ps : Pins) (e : Event) : Bool :=
  match e with
  | .drive .sdio _ => ps.sclk.level != .high && ps.ioupdate.level != .high
  | .drive .sclk _ => ps.ioupdate.level != .high
  | .drive .cs _ => ps.ioupdate.level != .high
  | .drive .reset _ | .drive .ioupdate _ => true
  | .dir _ | .sleep _ | .diag _ | .trace _ | .exit _ => true

/-- The pin latches after a list of events (10_state.md R36). -/
def Pins.replay (ps : Pins) (events : List Event) : Pins := events.foldl Pins.event ps

/-- Every event of a list is allowed at the levels its predecessors leave. -/
def hazardFree (ps : Pins) (events : List Event) : Bool :=
  match events with
  | [] => true
  | e :: rest => eventAllowed ps e && hazardFree (ps.event e) rest

/-! ## Invariants of a state -/

/-- The pin latches are what the trace drove them to, from the latches at reset (R36, R71). -/
def State.pinsFollowTrace (s : State) : Bool := s.pins == Pins.atReset.replay s.trace

/-- Between operations neither the clock nor the strobe is high (R195, R341). -/
def State.quiet (s : State) : Bool := s.pins.sclk.level != .high && s.pins.ioupdate.level != .high

/-- The trace of the state has no hazard (R340, R341), and the next operation starts from quiet lines. -/
def State.hazardInv (s : State) : Bool :=
  s.pinsFollowTrace && s.quiet && hazardFree .atReset s.trace

/-- The byte buffers hold the registers they are the bytes of (10_state.md R28): FTWBUF = be_4(FTW),
ASFBUF = be_2(zext_16(ASF)), RSCWBUF = le_2(ARATE) ++ RSCW_TAIL; each pair is loaded together. -/
def State.buffersInv (s : State) : Bool :=
  s.ftwbuf == s.ftw.map be4
    && s.asfbuf == s.asf.map (fun a => be2 (a.setWidth 16))
    && s.rscwbuf == s.arate.map (rscwBytes params)

/-- The seven operand registers (10_state.md R21) of a state. -/
def State.operands (s : State) :
    Option Mode × Option ℚ × Option ℚ × Option ℚ × Option LevelRequest × Option Bool :=
  (s.mode, s.freq, s.tone1, s.tone2, s.level, s.debug)

/-- The state of the run and the terminal record agree (10_state.md R33, R40; 44_sequencer.md R264): while the run is not over,
EXIT_CODE holds no value and TRACE has no `Exit` record. -/
def State.endInv (s : State) : Bool :=
  s.halted || (s.exitCode == none && s.log.all (fun e => match e with | .exit _ => false | _ => true))

/-- The observer is between two frames: no bit or byte collected since the last pulse, no pulse in progress (R66). -/
def Observer.idle (o : Observer) : Bool := o.count == 0 && o.acc == 0 && o.bytes == [] && o.staged == none

/-- After INIT and between rows: all pins outputs, SCLK and IOUPDATE at 0 (42_transport.md R191), the latches as the trace left
them, and the observer between two frames. -/
def State.linkReady (s : State) : Bool :=
  s.pins.allOut && s.pins.sclk.level == .low && s.pins.ioupdate.level == .low
    && s.pinsFollowTrace && (observe params s.trace).idle

/-! ## Events of the transport, as its rules list them -/

/-- "for `k` = 7 down to 0: `Drive(SDIO, b[k])`; `Drive(SCLK,1)`; `Drive(SCLK,0)`" (42_transport.md R194). -/
def bitLoopEvents (b : Byte) : List Event :=
  [7, 6, 5, 4, 3, 2, 1, 0].flatMap (fun k => [.drive .sdio (b.getLsbD k), .drive .sclk true, .drive .sclk false])

/-- `n` is the real number `10^(d/20) * 16383` rounded to nearest (40_codecs.md R131; no tie occurs, R138, and it is positive). -/
def isDecibels (d : ℚ) (n : ℕ) : Prop := (n : ℤ) = ⌊(10 : ℝ) ^ ((d : ℝ) / 20) * 16383 + 1 / 2⌋

/-- The unclipped amplitude a level request stands for (40_codecs.md R130 to R133), as the spec's formulas give it. -/
def levelGives (l : LevelRequest) (raw : ℕ) : Prop :=
  match l with
  | .rel d => isDecibels d raw
  | .dbm p => isDecibels (p - params.pMaxDbm) raw
  | .int n => raw = n

/-- The payload of WR_RSCW for a tone of `t` Hz (41_tone_sweep.md R162): the address ramp rate, least significant byte first,
then the tail. -/
def rscwPayload (t : ℚ) : List Byte :=
  let r := ⌊1000000 / (if t = 0 then 1000 else t) + 1 / 2⌋
  [BitVec.ofInt 8 r, BitVec.ofInt 8 (r / 256)] ++ params.rscwTail.toList

/-- The tones GEN_RSCW admits (41_tone_sweep.md R164): not negative, and a rate that fits 16 bits. -/
def toneAdmitted (t : ℚ) : Prop := 0 ≤ t ∧ ⌊1000000 / (if t = 0 then 1000 else t) + 1 / 2⌋ ≤ 65535

/-- The tuning word of a frequency (40_codecs.md R121): `floor(f * 2^32 / SYSFREQ)`. -/
def wordOf (f : ℚ) : ℤ := ⌊f * 2 ^ 32 / params.sysfreq⌋

/-- The four bytes of a tuning word, most significant first (40_codecs.md R121). -/
def wordBytes (w : ℤ) : List Byte :=
  [BitVec.ofInt 8 (w / 2 ^ 24), BitVec.ofInt 8 (w / 2 ^ 16), BitVec.ofInt 8 (w / 2 ^ 8), BitVec.ofInt 8 w]

/-- A record of verbose tracing (60_exceptions.md R318). -/
def Event.isVerbose : Event → Bool
  | .trace _ => true
  | .dir _ | .drive _ _ | .sleep _ | .diag _ | .exit _ => false

/-- `t` is `u` with DEBUG and `Trace` records apart: every other part of the state is the same, and so are the two traces once
their `Trace` records are left out (10_state.md R26, 60_exceptions.md R318). -/
def State.sameButVerbose (u t : State) : Prop :=
  { u with log := t.log, debug := t.debug } = t ∧
  t.trace.filter (fun e => !e.isVerbose) = u.trace.filter (fun e => !e.isVerbose)

/-! ## Runs -/

/-- The run is in the tone loop (44_sequencer.md R260): a row 10 to 14 of PROG_FM, not over, the pins outputs, and both tones
such that GEN_RSCW admits them. -/
def State.inToneLoop (s : State) : Prop :=
  s.mode = some .frequencyModulatedTone ∧ 10 ≤ s.seqPc.toNat ∧ s.seqPc.toNat ≤ 14 ∧ s.halted = false ∧
  s.pins.allOut = true ∧ ∃ t1 t2, s.tone1 = some t1 ∧ s.tone2 = some t2 ∧ toneAdmitted t1 ∧ toneAdmitted t2


/-- At most `n` steps, stopping with a next state once the run is over (10_state.md R33). -/
def runToHalt (n : ℕ) (s : State) : Host.Outcome State Fault Refusal :=
  match n with
  | 0 => .next s
  | k + 1 =>
    if s.halted then .next s
    else
      match step s with
      | .next t => runToHalt k t
      | .fault e => .fault e
      | .refused e => .refused e

/-- A run that ended well (R264): TRACE ends in `Exit(0)`. -/
def State.isFinal (s : State) : Bool := s.halted && s.log.head? == some (.exit 0)

/-- A fatal run (R264): TRACE ends in `Exit(1)`. -/
def State.isFatal (s : State) : Bool := s.halted && s.log.head? == some (.exit 1)

/-- The trace of a run from `s` cut by external termination (R265, D30): a prefix of the trace after some number of steps. -/
def TerminatedTrace (s : State) (cut : List Event) : Prop :=
  ∃ n t, runToHalt n s = .next t ∧ cut <+: t.trace

/-- The pin activity of a trace, the `Sleep` records removed: what claims compare (R350). -/
def pinActivity (trace : List Event) : List Event :=
  trace.filter (fun e => match e with | .sleep _ => false | _ => true)

end Sys2Proof.Machine
end

