-- ==== Sys2Proof/Certificates/Slice0/Obligations.lean ====
section
/-! DEFINITION. The statements for the provers, one `def Obligations.<Name> : Prop` each; OBLIGATIONS.json lists them. They read
the configuration through `params`, so that nothing rests on the value of a parameter unless a docstring says so. -/

open Sys2Proof Sys2Proof.Machine

/-! ## Encoding and the program store -/

/-- A few frames' first bytes read as the operations of the opcode map (30_encoding.md R99). The bytes other than 0x0B are the
spec's defaults (D8, log entry 11), and 0x07 reads as the operation on TONE1 by log entry 16. -/
def Obligations.TableBytesDecode : Prop :=
  decodeTableWord 8 0x0B = some .wrRam ∧ decodeTableWord 8 0x00 = some .wrCfr1 ∧
  decodeTableWord 8 0x02 = some .wrAsf ∧ decodeTableWord 8 0x04 = some .wrFtw0 ∧
  decodeTableWord 8 0x07 = some (.wrRscw .tone1) ∧ decodeTableWord 8 0x05 = none

/-- "The seven instruction bytes must be pairwise distinct" (R99), and the whole configuration is well formed (R334):
lengths, the three flags of CFR1 (43_register_frames.md R223, at the positions of log entry 28), the numbers, and a tone table that samples one full sine cycle (41_tone_sweep.md R167, read as
log entry 27 says). The values are the spec's defaults (log entry 11). -/
def Obligations.ParamsWellFormed : Prop :=
  params.addrsDistinct = true ∧ params.wellFormed

/-- Decoding an encoded frame gives it back, for every configuration with distinct instruction bytes, every register, every
payload of the register's length, and whatever follows (R90, R98, R99). -/
def Obligations.DecodeEncodeFrame : Prop :=
  ∀ (c : Config) (r : ChipReg) (payload rest : List Byte),
    c.addrsDistinct = true → r.payloadFits c payload = true →
    decode c (encodeFrame c r payload ++ rest) = .ok { instr := r.instr, payload := payload, rest := rest }

/-- Decoding the encoded words of an operation gives the operation back, but for the register operand of WR_RSCW, which no
wire bit carries (log entry 16); every register-write operation has words, and no internal operation has any (R99); an
instruction byte outside the seven is refused by name (R100). -/
def Obligations.DecodeEncodeInstr : Prop :=
  ∀ (i : Instr) (payload : List Byte),
    (∀ r, i.chipReg? = some r → r.payloadFits params payload = true →
      ∃ ws, encode params i payload = some ws ∧
        decode params ws = .ok { instr := i.onWire, payload := payload, rest := [] }) ∧
    (i.chipReg? = none → encode params i payload = none) ∧
    (∀ b bs, (∀ r : ChipReg, r.addr params ≠ b) → decode params (b :: bs) = .error (.unknownInstructionByte b))

/-- The two programs are the listings of 10_state.md R30, row by row, and have no other row. -/
def Obligations.ProgramListings : Prop :=
  (List.range 16).map (fun k => program params .singleFrequency (BitVec.ofNat 4 k)) =
    [some .validate, some .init, some .wrCfr1, some .wrArr, some .wrCfr2, some .wrAsf, some .wrFtw0, some (.exit 0)]
      ++ List.replicate 8 none ∧
  (List.range 16).map (fun k => program params .frequencyModulatedTone (BitVec.ofNat 4 k)) =
    [some .validate, some .init, some .wrCfr1, some .wrArr, some .wrCfr2, some .wrAsf, some (.genRamtab .freq),
      some .wrRam, some (.wrRscw .tone1), some (.btone2 10), some (.sleep params.tToggleMs), some (.wrRscw .tone2),
      some (.sleep params.tToggleMs), some (.wrRscw .tone1), some (.jmp 10), none]

/-- A step runs the row of the program that MODE selects, at SEQ_PC (44_sequencer.md R251), and nothing else around it. -/
def Obligations.StepRunsProgramRow : Prop :=
  ∀ (s : State) (m : Mode) (i : Instr),
    s.halted = false → s.mode = some m → program params m s.seqPc = some i → step s = exec i s

/-- When no row is fetched the step stops: HALTED is 1 (R33), MODE holds no value (R43), or the slot has "(no step)" (R30).
The names of the two faults are the model's (log entry 4). -/
def Obligations.StepStops : Prop :=
  ∀ s : State,
    (s.halted = true → step s = .fault .runOver) ∧
    (s.halted = false → s.mode = none →
      step s = .refused (.unloadedRegister .mode { s with halted := true, exitCode := none })) ∧
    (∀ m, s.halted = false → s.mode = some m → program params m s.seqPc = none → step s = .fault .noStep)

/-- An operation placed by `withFetchWord` is what the very next step runs, whatever the state; the host's placing changes
MODE, SEQ_PC and HALTED and nothing else (log entry 3). -/
def Obligations.PlacedWordIsRun : Prop :=
  ∀ (s : State) (nbits w : ℕ) (i : Instr), decodeTableWord nbits w = some i →
    step (s.withFetchWord nbits w) = exec i (s.withFetchWord nbits w) ∧
    { s.withFetchWord nbits w with mode := s.mode, seqPc := s.seqPc, halted := s.halted } = s

/-! ## Reset and the host -/

/-- The state at power-on (10_state.md R42): "holds no value" for every operand, result, buffer and transport register,
SEQ_PC 0, flags 0, the pins `in` and undriven, TRACE empty. These values are the spec's own choice (D28). -/
def Obligations.ResetState : Prop :=
  let s := State.reset
  (s.mode = none ∧ s.freq = none ∧ s.tone1 = none ∧ s.tone2 = none ∧ s.lvlKind = none ∧ s.lvl = none ∧ s.debug = none) ∧
  (s.ftw = none ∧ s.asfRaw = none ∧ s.asf = none ∧ s.arate = none) ∧
  (s.ftwbuf = none ∧ s.asfbuf = none ∧ s.rscwbuf = none ∧ ∀ a, memGet s.rambuf a = none) ∧
  (s.shreg = none ∧ s.bitcnt = none ∧ s.byteidx = none ∧ s.xlen = none) ∧
  s.seqPc = 0 ∧ s.warnHi = false ∧ s.halted = false ∧ s.exitCode = none ∧
  (∀ p, (s.pins.get p).dir = .input ∧ (s.pins.get p).level = .undriven) ∧ s.trace = []

/-- The host's load of the operand registers, with the defaults of R22 and R24 (D22) where an option is not given. -/
def Obligations.HostLoadDefaults : Prop :=
  ∀ (s : State) (f : ℚ) (l : LevelRequest),
    s.hostLoad { mode := none, freq := some f, tone := none, tone2 := none, level := some l, verbosity := [] } =
      { s with mode := some .singleFrequency, freq := some f, tone1 := some 0, tone2 := some 0, level := some l,
               debug := some false }

/-! ## Tuning-word codec -/

/-- ENC_FTW (40_codecs.md R121) where it completes: FTW and FTWBUF get the floor of `f * 2^32 / SYSFREQ` and its bytes, and with
DEBUG 0 nothing else changes. -/
def Obligations.EncFtwResult : Prop :=
  ∀ (s : State) (f : ℚ), s.debug = some false → 0 ≤ f → wordOf f < 2 ^ 32 →
    ∃ b : Vector Byte 4, b.toList = wordBytes (wordOf f) ∧
      exec (.encFtw f) s = .next { s with ftw := some (BitVec.ofInt 32 (wordOf f)), ftwbuf := some b }

/-- ENC_FTW with DEBUG 1 (R121, R127): one `Trace` record of some text more, and no register or pin differs. That it is one
record, and that the model records it at all, is the model's choice (log entry 9; R40, R318 and D31 let a model omit it). -/
def Obligations.EncFtwVerbose : Prop :=
  ∀ (s : State) (f : ℚ), s.debug = some true → 0 ≤ f → wordOf f < 2 ^ 32 →
    ∃ (b : Vector Byte 4) (text : String), b.toList = wordBytes (wordOf f) ∧
      exec (.encFtw f) s = .next { s with
        ftw := some (BitVec.ofInt 32 (wordOf f)), ftwbuf := some b, log := .trace text :: s.log }

/-- ENC_FTW and GEN_RSCW outside their domains (40_codecs.md R123, 41_tone_sweep.md R164; the spec's choice D21): a negative
frequency or tone, a word of 2^32 or more, and a rate above 65535 are refused, in a state that differs from the one before
only in HALTED and EXIT_CODE (10_state.md R31, R33); so are the rows that contain them, WR_FTW0 and WR_RSCW. -/
def Obligations.EncoderRefusals : Prop :=
  ∀ (s : State) (f : ℚ) (r : ToneReg),
    let e : State := { s with halted := true, exitCode := none }
    (f < 0 → exec (.encFtw f) s = .refused (.negativeFrequency e) ∧
      (s.freq = some f → exec .wrFtw0 s = .refused (.negativeFrequency e))) ∧
    (2 ^ 32 ≤ wordOf f → exec (.encFtw f) s = .refused (.tuningWordOverflow e) ∧
      (s.freq = some f → exec .wrFtw0 s = .refused (.tuningWordOverflow e))) ∧
    (f < 0 → exec (.genRscw f) s = .refused (.negativeTone e) ∧
      (s.tone r = some f → exec (.wrRscw r) s = .refused (.negativeTone e))) ∧
    (0 ≤ f → ¬ toneAdmitted f → exec (.genRscw f) s = .refused (.rampRateOverflow e) ∧
      (s.tone r = some f → exec (.wrRscw r) s = .refused (.rampRateOverflow e)))

/-- The integer characterisation of ENC_FTW (R126): it completes with FTW = `w` exactly when
`w * SYSFREQ <= f * 2^32 < (w + 1) * SYSFREQ`, for every natural `w` below 2^32 and every non-negative `f`; and the tuning
word is monotone non-decreasing in the frequency. -/
def Obligations.EncFtwIntegerTest : Prop :=
  (∀ (s : State) (f : ℚ) (w : ℕ), s.debug = some false → 0 ≤ f → w < 2 ^ 32 →
    ((∃ t, exec (.encFtw f) s = .next t ∧ t.ftw = some (BitVec.ofNat 32 w)) ↔
      ((w : ℚ) * params.sysfreq ≤ f * 2 ^ 32 ∧ f * 2 ^ 32 < ((w : ℚ) + 1) * params.sysfreq))) ∧
  (∀ (s t u : State) (f g : ℚ) (v w : BitVec 32), f ≤ g →
    exec (.encFtw f) s = .next t → t.ftw = some v → exec (.encFtw g) s = .next u → u.ftw = some w → v ≤ w)

/-- The round trip of the tuning-word codec (R124): `0 <= f - DEC_FTW(ENC_FTW(f)) < SYSFREQ / 2^32` for every `f` in the domain. -/
def Obligations.TuningWordRoundTrip : Prop :=
  ∀ (s : State) (f : ℚ), s.debug = some false → 0 ≤ f → wordOf f < 2 ^ 32 →
    ∃ t b, exec (.encFtw f) s = .next t ∧ t.ftwbuf = some b ∧
      0 ≤ f - decFtw params b ∧ f - decFtw params b < params.sysfreq / 2 ^ 32

/-! ## Amplitude codec -/

/-- ENC_ASF_REL (R131): ASF_RAW gets `10^(d/20) * 16383` rounded to nearest, over the real numbers, for every rational level,
and nothing else changes. (The real is positive, so rounding to nearest, ties away from zero, is the floor after adding a half.) -/
def Obligations.AsfRelIsTheRealFormula : Prop :=
  ∀ (s : State) (d : ℚ), ∃ n : ℕ,
    exec (.encAsfRel d) s = .next { s with asfRaw := some n } ∧ isDecibels d n

/-- The decidable characterisation of ENC_ASF_REL (R137) for `d = a/b`, as rationals. -/
def Obligations.AsfRelRationalTest : Prop :=
  ∀ (s t : State) (a : ℤ) (b n : ℕ), 0 < b → exec (.encAsfRel ((a : ℚ) / b)) s = .next t →
    (1 ≤ n → (t.asfRaw = some n ↔
      ((2 * (n : ℚ) - 1) / 32766) ^ (20 * b) ≤ (10 : ℚ) ^ a ∧ (10 : ℚ) ^ a < ((2 * (n : ℚ) + 1) / 32766) ^ (20 * b))) ∧
    (t.asfRaw = some 0 ↔ (10 : ℚ) ^ a < (1 / 32766 : ℚ) ^ (20 * b))

/-- The properties of the amplitude codec as R136 restates them: 0 dB gives 16383, the amplitude is monotone in the level, never
above 16383 below 0 dB, and strictly below it once `10^(d/20) * 16383 < 16382.5`. -/
def Obligations.AsfRelProperties : Prop :=
  (∀ s : State, exec (.encAsfRel 0) s = .next { s with asfRaw := some 16383 }) ∧
  (∀ (s t u : State) (d e : ℚ) (m n : ℕ), d ≤ e → exec (.encAsfRel d) s = .next t → t.asfRaw = some m →
    exec (.encAsfRel e) s = .next u → u.asfRaw = some n → m ≤ n) ∧
  (∀ (s t : State) (d : ℚ) (n : ℕ), d < 0 → exec (.encAsfRel d) s = .next t → t.asfRaw = some n →
    n ≤ 16383 ∧ ((10 : ℝ) ^ ((d : ℝ) / 20) * 16383 < 16382.5 → n < 16383))

/-- ENC_ASF_DBM (R132): the relative conversion of the level less P_MAX_DBM, whatever P_MAX_DBM is; at `P_MAX_DBM` itself it
gives 16383. -/
def Obligations.AsfDbmIsRelativeToMaximum : Prop :=
  ∀ (s : State) (p : ℚ), ∃ n : ℕ,
    exec (.encAsfDbm p) s = .next { s with asfRaw := some n } ∧
    isDecibels (p - params.pMaxDbm) n ∧
    (p = params.pMaxDbm → n = 16383)

/-- ENC_ASF_INT (R133): ASF_RAW gets the number itself, of any size, and nothing else changes. -/
def Obligations.AsfIntIsDirect : Prop :=
  ∀ (s : State) (n : ℕ), exec (.encAsfInt n) s = .next { s with asfRaw := some n }

/-- CHK_ASF (R134, R135): an amplitude up to 16383 goes to ASF and its two bytes, most significant first with two zero bits on
top, to ASFBUF; above, the fatal error AmpRange is taken (60_exceptions.md R296): `Diag(AmpRange)`, EXIT_CODE 1, HALTED 1,
`Exit(1)`, WARN_HI unspecified (R300). Nothing else of the spec's state changes. -/
def Obligations.ChkAsfResult : Prop :=
  ∀ (s : State) (n : ℕ), s.asfRaw = some n →
    (n ≤ 16383 → exec .chkAsf s = .next { s with
      asf := some (BitVec.ofNat 14 n)
      asfbuf := some #v[(0 : BitVec 2) ++ (BitVec.ofNat 14 n).extractLsb' 8 6, (BitVec.ofNat 14 n).extractLsb' 0 8] }) ∧
    (16383 < n → ∃ (w : Bool) (k : ℕ), exec .chkAsf s = .next { s with
      log := .exit 1 :: .diag (.fatal .ampRange) :: s.log, exitCode := some 1, halted := true, warnHi := w, freeCount := k })

/-! ## Tone-sweep generator -/

/-- GEN_RSCW (41_tone_sweep.md R162): ARATE and RSCWBUF get the rate and its bytes, least significant first, before the tail;
nothing else changes. The tie rule inside the rounding is the spec's choice D5. -/
def Obligations.GenRscwResult : Prop :=
  ∀ (s : State) (t : ℚ), toneAdmitted t →
    ∃ b : Vector Byte 5, b.toList = rscwPayload t ∧
      exec (.genRscw t) s = .next { s with
        arate := some (BitVec.ofInt 16 ⌊1000000 / (if t = 0 then 1000 else t) + 1 / 2⌋), rscwbuf := some b }

/-- The default tone (R161): GEN_RSCW on 0 behaves exactly as on 1000, in every state, and completes. -/
def Obligations.GenRscwDefaultTone : Prop :=
  ∀ s : State, exec (.genRscw 0) s = exec (.genRscw 1000) s ∧
    ∃ t, exec (.genRscw 0) s = .next t ∧ t.arate = some 1000 ∧ t.tone1 = s.tone1 ∧ t.tone2 = s.tone2

/-- GEN_RAMTAB (R170): byte `k` of entry `i` of RAMBUF is byte `k` of the tuning word of `carrier + TONE_TABLE[i]`, for all 400
bytes; FTW and FTWBUF are scratch; no other register, flag, pin or byte changes, verbose records aside, and the row goes on
at 7 (44_sequencer.md R258). The carrier is given as a value or read from FREQ; that the form with a value also ends with SEQ_PC
at 7 is the model's choice (log entries 13 and 25). The entries are those of the configured table (D7), whose peak is 2500. -/
def Obligations.GenRamtabTable : Prop :=
  ∀ (s : State) (k : Carrier) (c : ℚ) (verbose : Bool), s.debug = some verbose →
    (k = .value c ∨ (k = .freq ∧ s.freq = some c)) → 2500 ≤ c → c + 2500 < params.sysfreq →
    ∃ t new, exec (.genRamtab k) s = .next t ∧ t.seqPc = 7 ∧
      (∀ (i : ℕ) (o : ℤ) (j : ℕ), params.toneTable[i]? = some o → j < 4 →
        memGet t.rambuf (4 * i + j) = (wordBytes (wordOf (c + o)))[j]?) ∧
      (∀ a, 400 ≤ a → memGet t.rambuf a = memGet s.rambuf a) ∧
      t.log = new ++ s.log ∧ (∀ e ∈ new, verbose = true ∧ e.isVerbose = true) ∧
      { t with rambuf := s.rambuf, ftw := s.ftw, ftwbuf := s.ftwbuf, seqPc := s.seqPc, log := s.log } = s

/-- GEN_RAMTAB outside its domain (R172, D21): below 2500 Hz refused NegativeFrequency, and where the highest sum reaches
SYSFREQ refused TuningWordOverflow (40_codecs.md R123), as a whole, with no byte of RAMBUF written (R171). The bounds 2500 are
those of the spec's default table (D7). HALTED and EXIT_CODE of the ended state are R31 and R33; that FTW, FTWBUF and the trace
keep what they held too, although earlier entries were encoded, is the model's reading (log entry 5). -/
def Obligations.GenRamtabRefusals : Prop :=
  ∀ (s : State) (k : Carrier) (c : ℚ), s.debug ≠ none → (k = .value c ∨ (k = .freq ∧ s.freq = some c)) →
    (c < 2500 → exec (.genRamtab k) s = .refused (.negativeFrequency { s with halted := true, exitCode := none })) ∧
    (2500 ≤ c → params.sysfreq ≤ c + 2500 →
      exec (.genRamtab k) s = .refused (.tuningWordOverflow { s with halted := true, exitCode := none }))

/-! ## Transport -/

/-- SHIFT_BYTE (42_transport.md R194): for `k` = 7 down to 0, data then the clock pulse; SHREG and BITCNT end empty; no other
register changes, and the pins follow the events. -/
def Obligations.ShiftByteEvents : Prop :=
  ∀ (s : State) (b : Byte), ∃ t, exec (.shiftByte b) s = .next t ∧
    t.trace = s.trace ++ bitLoopEvents b ∧ t.pins = s.pins.replay (bitLoopEvents b) ∧
    t.shreg = some 0 ∧ t.bitcnt = some 0 ∧
    { t with log := s.log, pins := s.pins, shreg := s.shreg, bitcnt := s.bitcnt } = s

/-- STROBE (R196): the pulse with its delays (placement and lengths are the parameters of D16), and nothing else. -/
def Obligations.StrobeEvents : Prop :=
  ∀ s : State, ∃ t, exec .strobe s = .next t ∧
    t.trace = s.trace ++ (pauseEvents params.tStrobePreMs ++ [.drive .ioupdate true]
      ++ pauseEvents params.tStrobeHighMs ++ [.drive .ioupdate false] ++ pauseEvents params.tStrobePostMs) ∧
    t.pins = { s.pins with ioupdate := { s.pins.ioupdate with level := .low } } ∧
    { t with log := s.log, pins := s.pins } = s

/-- XFER (R192, R193, R199) for any instruction byte and any payload, the empty one too: chip-select active, the bits of every
byte most significant first, the strobe, and no `Drive` of chip-select to inactive. Only pins, trace and the transport
registers change. -/
def Obligations.XferEvents : Prop :=
  ∀ (s : State) (i : Byte) (d : List Byte), s.pins.allOut = true →
    ∃ t new, exec (.xfer i d) s = .next t ∧
      new = .drive .cs params.csActive :: ((i :: d).flatMap bitLoopEvents ++ strobeEvents params) ∧
      t.trace = s.trace ++ new ∧ t.pins = s.pins.replay new ∧ .drive .cs (!params.csActive) ∉ new ∧
      { t with log := s.log, pins := s.pins, shreg := s.shreg, bitcnt := s.bitcnt, byteidx := s.byteidx,
               xlen := s.xlen, freeCount := s.freeCount } = s

/-- XFER with a pin still at direction `in` (R191, D21): refused; and no register-write operation, each of which is one XFER
(43_register_frames.md R220), answers a next state. HALTED and EXIT_CODE of the ended state are R31 and R33; that nothing else
of it has changed, no event and no transport register, is the model's reading (log entry 5). -/
def Obligations.XferUnconfiguredRefused : Prop :=
  ∀ (s : State) (p : Pin), (s.pins.get p).dir = .input →
    (∀ (i : Byte) (d : List Byte),
      exec (.xfer i d) s = .refused (.pinNotConfigured { s with halted := true, exitCode := none })) ∧
    (∀ (i : Instr) (r : ChipReg) (t : State), i.chipReg? = some r → exec i s ≠ .next t)

/-- The event count of one frame (R197): `1 + 3*(8 + 8*len) + 2` Drive events, of which `8 + 8*len` are clock pulses. -/
def Obligations.XferEventCount : Prop :=
  ∀ (s t : State) (i : Byte) (d : List Byte), exec (.xfer i d) s = .next t →
    ∃ new, t.trace = s.trace ++ new ∧ clockPulses new = 8 + 8 * d.length ∧
      (new.filter (fun e => match e with | .drive _ _ => true | _ => false)).length = 1 + 3 * (8 + 8 * d.length) + 2

/-- The observer recovers exactly the frame sent (20_memory.md R66, 10_state.md R41): from any state whose link is ready, FRAMES
grows by the one pair `(I, D)` and the link is ready again. -/
def Obligations.ObserverRecoversFrame : Prop :=
  ∀ (s : State) (i : Byte) (d : List Byte), s.linkReady = true →
    ∃ t, exec (.xfer i d) s = .next t ∧ t.frames = s.frames ++ [{ instr := i, payload := d }] ∧ t.linkReady = true

/-! ## Register-write operations -/

/-- WR_CFR1 (43_register_frames.md R222): the XFER of CFR1_BASE, OR-ed bytewise with CFR1_RAM_EN in FM-tone mode. -/
def Obligations.WrCfr1IsItsFrame : Prop :=
  ∀ (s : State) (m : Mode), s.mode = some m → s.pins.allOut = true →
    ∃ t, exec (.xfer params.addrCfr1
        (if m = .frequencyModulatedTone then List.zipWith (· ||| ·) params.cfr1Base params.cfr1RamEn else params.cfr1Base)) s
        = .next t ∧
      exec .wrCfr1 s = .next { t with seqPc := s.seqPc + 1 }

/-- WR_ARR (R224) and WR_CFR2 (R226): the XFER of their constant payload, the same in both modes. -/
def Obligations.ConstantFrames : Prop :=
  ∀ s : State, s.pins.allOut = true →
    (∃ t, exec (.xfer params.addrArr params.arrPayload) s = .next t ∧ exec .wrArr s = .next { t with seqPc := s.seqPc + 1 }) ∧
    (∃ t, exec (.xfer params.addrCfr2 params.cfr2Payload) s = .next t ∧ exec .wrCfr2 s = .next { t with seqPc := s.seqPc + 1 })

/-- WR_ASF (R228): the XFER of ASFBUF. -/
def Obligations.WrAsfIsItsFrame : Prop :=
  ∀ (s : State) (b : Vector Byte 2), s.asfbuf = some b → s.pins.allOut = true →
    ∃ t, exec (.xfer params.addrAsf b.toList) s = .next t ∧ exec .wrAsf s = .next { t with seqPc := s.seqPc + 1 }

/-- WR_FTW0 (R230): ENC_FTW on FREQ, then the XFER of FTWBUF, from the state ENC_FTW leaves. -/
def Obligations.WrFtw0IsItsFrame : Prop :=
  ∀ (s : State) (f : ℚ), s.freq = some f → s.debug ≠ none → 0 ≤ f → wordOf f < 2 ^ 32 → s.pins.allOut = true →
    ∃ u b t, exec (.encFtw f) s = .next u ∧ u.ftwbuf = some b ∧
      exec (.xfer params.addrFtw0 b.toList) u = .next t ∧ exec .wrFtw0 s = .next { t with seqPc := s.seqPc + 1 }

/-- WR_RAM (R232): the XFER of all 400 bytes of RAMBUF, address 0 first, in one frame to 0x0B. -/
def Obligations.WrRamIsItsFrame : Prop :=
  ∀ (s : State) (bs : List Byte), bs.length = 400 → (∀ a, a < 400 → memGet s.rambuf a = bs[a]?) → s.pins.allOut = true →
    ∃ t, exec (.xfer 0x0B bs) s = .next t ∧ exec .wrRam s = .next { t with seqPc := s.seqPc + 1 }

/-- WR_RSCW t (R234), for either tone register: GEN_RSCW on its content, then the XFER of RSCWBUF. -/
def Obligations.WrRscwIsItsFrame : Prop :=
  ∀ (s : State) (r : ToneReg) (hz : ℚ), s.tone r = some hz → toneAdmitted hz → s.pins.allOut = true →
    ∃ u b t, exec (.genRscw hz) s = .next u ∧ u.rscwbuf = some b ∧
      exec (.xfer params.addrRscw b.toList) u = .next t ∧ exec (.wrRscw r) s = .next { t with seqPc := s.seqPc + 1 }

/-- Each register-write operation sends exactly one frame, to its register's instruction byte and of its register's fixed length
(R220, 20_memory.md R67, 30_encoding.md R99), writes no flag, and goes on at the next row (10_state.md R31). -/
def Obligations.OneFramePerRegisterWrite : Prop :=
  ∀ (s t : State) (i : Instr) (r : ChipReg), i.chipReg? = some r → s.linkReady = true → exec i s = .next t →
    ∃ d, t.frames = s.frames ++ [{ instr := r.addr params, payload := d }] ∧ d.length = r.len params ∧
      t.linkReady = true ∧ t.halted = s.halted ∧ t.warnHi = s.warnHi ∧ t.exitCode = s.exitCode ∧ t.seqPc = s.seqPc + 1

/-! ## Sequencer -/

/-- VALIDATE where both ranges hold (44_sequencer.md R252, R253): ASF_RAW, ASF and ASFBUF from the level, the warning exactly
above 160 MHz, row 1 next, nothing else changed. -/
def Obligations.ValidatePasses : Prop :=
  ∀ (s : State) (f : ℚ) (l : LevelRequest) (raw : ℕ),
    s.freq = some f → s.level = some l → levelGives l raw → 0 ≤ f → f ≤ 200000000 → raw ≤ 16383 →
    exec .validate s = .next { s with
      asfRaw := some raw, asf := some (BitVec.ofNat 14 raw)
      asfbuf := some #v[BitVec.ofNat 8 (raw / 256), BitVec.ofNat 8 raw]
      seqPc := 1
      warnHi := if 160000000 < f then true else s.warnHi
      log := if 160000000 < f then .diag .freqHigh :: s.log else s.log }

/-- VALIDATE where a range fails (R252, 60_exceptions.md R294 to R296, R300): some fatal cause that holds is raised; ASF_RAW holds
the converted level, no pin, operand, other result or SEQ_PC changes; a `Diag(FreqHigh)` may stand before it in the warning
range only, and WARN_HI is unspecified. Which cause is raised when both hold is the free value of log entry 7. -/
def Obligations.ValidateFatal : Prop :=
  ∀ (s : State) (f : ℚ) (l : LevelRequest) (raw : ℕ),
    s.freq = some f → s.level = some l → levelGives l raw → (f < 0 ∨ 200000000 < f ∨ 16383 < raw) →
    ∃ (c : FatalCause) (pre : List Event) (w : Bool) (k : ℕ),
      (c = .freqRange → f < 0 ∨ 200000000 < f) ∧ (c = .ampRange → 16383 < raw) ∧
      (pre = [] ∨ (pre = [.diag .freqHigh] ∧ 160000000 < f ∧ f ≤ 200000000)) ∧
      exec .validate s = .next { s with
        asfRaw := some raw, log := .exit 1 :: .diag (.fatal c) :: (pre ++ s.log)
        exitCode := some 1, halted := true, warnHi := w, freeCount := k }

/-- The normative order inside INIT (44_sequencer.md R255): reset asserted, the idle levels chip-select, update-strobe, clock in
that order, reset released; between only a delay. That nothing but `Dir` events stands before the reset is the spec's choice D18
(R256, log entry 20). -/
def Obligations.InitResetOrder : Prop :=
  ∀ s : State, ∃ t outs wait, exec .init s = .next t ∧
    t.trace = s.trace ++ (outs ++ [.drive .reset params.resetActive, .drive .cs (!params.csActive),
      .drive .ioupdate false, .drive .sclk false] ++ wait ++ [.drive .reset (!params.resetActive)]) ∧
    (∀ e ∈ outs, ∃ p, e = .dir p) ∧ (∀ e ∈ wait, ∃ ms, e = .sleep ms)

/-- INIT (R254): all five pins outputs, the idle levels, SDIO not driven, row 2 next; no register changes. From a state whose
latches are what its trace left (the state at reset is one), the link is then ready for every transfer (42_transport.md R191),
whatever the observer had collected, since the first byte after INIT is an instruction byte (20_memory.md R66); and no frame has
been committed unless INIT ends a pulse in progress. The order of the `Dir` events and SDIO being left alone are the spec's choice
D18; how the observer knows INIT is log entry 21. -/
def Obligations.InitPins : Prop :=
  ∀ s : State, ∃ t, exec .init s = .next t ∧ t.pins.allOut = true ∧
    t.pins.reset.level = .ofBool (!params.resetActive) ∧ t.pins.cs.level = .ofBool (!params.csActive) ∧
    t.pins.ioupdate.level = .low ∧ t.pins.sclk.level = .low ∧ t.pins.sdio.level = s.pins.sdio.level ∧
    t.seqPc = 2 ∧ { t with log := s.log, pins := s.pins, seqPc := s.seqPc } = s ∧
    (s.pinsFollowTrace = true → t.linkReady = true ∧
      ((observe params s.trace).staged = none → t.frames = s.frames))

/-- BTONE2 (R259): to the target when TONE2 > 0, otherwise the run exits with status 0; TONE2 is compared as given. -/
def Obligations.Btone2Branches : Prop :=
  ∀ (s : State) (t : StepIndex) (hz : ℚ), s.tone2 = some hz →
    (0 < hz → exec (.btone2 t) s = .next { s with seqPc := t }) ∧
    (hz ≤ 0 → exec (.btone2 t) s = .next { s with halted := true, exitCode := some 0, log := .exit 0 :: s.log })

/-- SLEEP, JMP (R261) and EXIT (R262): one `Sleep(ms)` event (none for 0, 00_scope.md R12) and the next row; the jump and no
event; HALTED 1, EXIT_CODE the code and the record `Exit(c)`, no pin event. -/
def Obligations.SleepJmpExit : Prop :=
  ∀ (s : State) (ms c : ℕ) (t : StepIndex),
    exec (.sleep ms) s = .next { s with
      log := if ms = 0 then s.log else .sleep ms :: s.log, seqPc := s.seqPc + 1 } ∧
    exec (.jmp t) s = .next { s with seqPc := t } ∧
    exec (.exit c) s = .next { s with halted := true, exitCode := some c, log := .exit c :: s.log }

/-- A register or buffer that holds no value is not read (10_state.md R43, D28, U21): each operation that reads one is refused by
the register's name; WR_FTW0 and GEN_RAMTAB read DEBUG through ENC_FTW. The model's own readings: the ended state is the one before
the operation but for HALTED and EXIT_CODE, also where a conversion came first (log entry 5); a level that is not loaded is named
LVL_KIND (log entry 12); DEBUG is read last (log entry 23). -/
def Obligations.UnloadedRegistersRefused : Prop :=
  ∀ s : State,
    let e : State := { s with halted := true, exitCode := none }
    (s.mode = none → exec .wrCfr1 s = .refused (.unloadedRegister .mode e)) ∧
    (s.asfbuf = none → exec .wrAsf s = .refused (.unloadedRegister .asfbuf e)) ∧
    (s.freq = none → exec .wrFtw0 s = .refused (.unloadedRegister .freq e) ∧
      exec (.genRamtab .freq) s = .refused (.unloadedRegister .freq e)) ∧
    (∀ a, a < 400 → memGet s.rambuf a = none → exec .wrRam s = .refused (.unloadedRegister .rambuf e)) ∧
    (s.tone1 = none → exec (.wrRscw .tone1) s = .refused (.unloadedRegister .tone1 e)) ∧
    (s.tone2 = none → exec (.wrRscw .tone2) s = .refused (.unloadedRegister .tone2 e) ∧
      ∀ t, exec (.btone2 t) s = .refused (.unloadedRegister .tone2 e)) ∧
    (s.level = none → exec .validate s = .refused (.unloadedRegister .lvlKind e)) ∧
    (s.level ≠ none → s.freq = none → exec .validate s = .refused (.unloadedRegister .freq e)) ∧
    (∀ f, s.debug = none → 0 ≤ f → wordOf f < 2 ^ 32 →
      exec (.encFtw f) s = .refused (.unloadedRegister .debug e) ∧
      (s.freq = some f → exec .wrFtw0 s = .refused (.unloadedRegister .debug e))) ∧
    (∀ c k, s.debug = none → (k = .value c ∨ (k = .freq ∧ s.freq = some c)) → 2500 ≤ c → c + 2500 < params.sysfreq →
      exec (.genRamtab k) s = .refused (.unloadedRegister .debug e)) ∧
    (s.asfRaw = none → exec .chkAsf s = .refused (.unloadedRegister .asfRaw e))

/-! ## Programs -/

/-- The macros PROG_SF and PROG_FM are the runs of their rows (30_encoding.md R102, 10_state.md R30): from row 0 of the program
that MODE selects they answer what eight and fifteen steps of the sequencer answer (PROG_FM: one pass of the tone loop with a
second tone; log entry 15). -/
def Obligations.MacrosAreTheirSteps : Prop :=
  ∀ s : State, s.seqPc = 0 → s.halted = false →
    (s.mode = some .singleFrequency → exec .progSf s = runToHalt 8 s) ∧
    (s.mode = some .frequencyModulatedTone → exec .progFm s = runToHalt 15 s)

/-- A single-frequency run that passes validation (44_sequencer.md R257, R263): exactly the five frames in order, HALTED 1,
EXIT_CODE 0, and the pins at their last levels, SDIO at the last bit sent. -/
def Obligations.SingleFrequencyRun : Prop :=
  ∀ (f : ℚ) (l : LevelRequest) (raw : ℕ) (tone tone2 : Option ℚ) (verbosity : List Bool) (s : State),
    s = State.start { mode := some .singleFrequency, freq := some f, tone := tone, tone2 := tone2, level := some l,
                      verbosity := verbosity } →
    levelGives l raw → 0 ≤ f → f ≤ 200000000 → raw ≤ 16383 →
    ∃ t, exec .progSf s = .next t ∧ t.isFinal = true ∧ t.exitCode = some 0 ∧ t.seqPc = 7 ∧
      t.frames = [⟨params.addrCfr1, params.cfr1Base⟩, ⟨params.addrArr, params.arrPayload⟩,
        ⟨params.addrCfr2, params.cfr2Payload⟩, ⟨params.addrAsf, [BitVec.ofNat 8 (raw / 256), BitVec.ofNat 8 raw]⟩,
        ⟨params.addrFtw0, wordBytes (wordOf f)⟩] ∧
      t.pins.reset.level = .ofBool (!params.resetActive) ∧ t.pins.cs.level = .ofBool params.csActive ∧
      t.pins.sclk.level = .low ∧ t.pins.ioupdate.level = .low ∧
      t.pins.sdio.level = .ofBool ((BitVec.ofInt 8 (wordOf f)).getLsbD 0)

/-- An FM-tone run (44_sequencer.md R258 to R260): without a second tone, six frames and exit status 0; with one, six frames and
then the two of the loop's first pass, the run not over and at row 10; the pins at their last levels (R263), SDIO at the last bit
of the ramp-sweep word. That PROG_FM as one instruction ends after one pass is the model's choice (log entry 15). The carrier
bound 2500 is that of the table (R172, D7). -/
def Obligations.FmToneRun : Prop :=
  ∀ (f t1 t2 : ℚ) (l : LevelRequest) (raw : ℕ) (verbosity : List Bool) (s : State),
    s = State.start { mode := some .frequencyModulatedTone, freq := some f, tone := some t1, tone2 := some t2,
                      level := some l, verbosity := verbosity } →
    levelGives l raw → 2500 ≤ f → f ≤ 200000000 → raw ≤ 16383 → toneAdmitted t1 → (t2 ≤ 0 ∨ toneAdmitted t2) →
    ∃ t table, exec .progFm s = .next t ∧
      table = params.toneTable.flatMap (fun o : ℤ => wordBytes (wordOf (f + o))) ∧
      t.frames = [⟨params.addrCfr1, List.zipWith (· ||| ·) params.cfr1Base params.cfr1RamEn⟩,
          ⟨params.addrArr, params.arrPayload⟩, ⟨params.addrCfr2, params.cfr2Payload⟩,
          ⟨params.addrAsf, [BitVec.ofNat 8 (raw / 256), BitVec.ofNat 8 raw]⟩, ⟨params.addrRam, table⟩,
          ⟨params.addrRscw, rscwPayload t1⟩]
        ++ (if 0 < t2 then [⟨params.addrRscw, rscwPayload t2⟩, ⟨params.addrRscw, rscwPayload t1⟩] else []) ∧
      (t2 ≤ 0 → t.isFinal = true ∧ t.exitCode = some 0 ∧ t.seqPc = 9) ∧
      (0 < t2 → t.halted = false ∧ t.exitCode = none ∧ t.seqPc = 10) ∧
      t.pins.reset.level = .ofBool (!params.resetActive) ∧ t.pins.cs.level = .ofBool params.csActive ∧
      t.pins.sclk.level = .low ∧ t.pins.ioupdate.level = .low ∧
      t.pins.sdio.level = .ofBool (params.rscwTail[2].getLsbD 0)

/-- One pass of the tone loop (R260): a wait, RSCW(TONE2), a wait, RSCW(TONE1), back at row 10, the link ready, the tones kept. -/
def Obligations.ToneLoopPass : Prop :=
  ∀ (s : State) (t1 t2 : ℚ), s.mode = some .frequencyModulatedTone → s.seqPc = 10 → s.halted = false →
    s.linkReady = true → s.tone1 = some t1 → s.tone2 = some t2 → toneAdmitted t1 → toneAdmitted t2 →
    ∃ t, runToHalt 5 s = .next t ∧ t.seqPc = 10 ∧ t.halted = false ∧ t.linkReady = true ∧ t.operands = s.operands ∧
      t.frames = s.frames ++ [⟨params.addrRscw, rscwPayload t2⟩, ⟨params.addrRscw, rscwPayload t1⟩]

/-- The tone loop never ends (R260, R265): after any number of steps the run is not over and EXIT_CODE has not been written, so
no trace of it, cut anywhere, holds an `Exit` record. -/
def Obligations.ToneLoopNeverEnds : Prop :=
  ∀ (s : State) (t1 t2 : ℚ), s.mode = some .frequencyModulatedTone → s.seqPc = 10 → s.halted = false →
    s.pins.allOut = true → s.tone1 = some t1 → s.tone2 = some t2 → toneAdmitted t1 → toneAdmitted t2 →
    (∀ n, ∃ t, runToHalt n s = .next t ∧ t.halted = false ∧ t.exitCode = s.exitCode) ∧
    (∀ cut, TerminatedTrace s cut → (∀ c, .exit c ∉ s.trace) → ∀ c, .exit c ∉ cut)

/-- A run whose operands fail validation sends nothing (60_exceptions.md R296, 70_reset_and_hazards.md R345): after its one step
the run is fatal, the exit status 1, no frame has been sent and no pin touched (the last is the spec's choice D19). -/
def Obligations.FatalRunSendsNothing : Prop :=
  ∀ (r : Request) (f : ℚ) (l : LevelRequest) (raw : ℕ), r.freq = some f → r.level = some l →
    levelGives l raw → (f < 0 ∨ 200000000 < f ∨ 16383 < raw) →
    ∃ t, runToHalt 1 (State.start r) = .next t ∧ t.isFatal = true ∧ t.exitCode = some 1 ∧ t.frames = [] ∧
      t.pins = Pins.atReset ∧ step t = .fault .runOver

/-! ## Invariants of every step -/

/-- The hazards (70_reset_and_hazards.md R340, R341): every step, and every operation by itself, from a state whose trace has none
leaves a trace with none: no SDIO change while SCLK is 1, no shifting while the strobe is high. -/
def Obligations.HazardsNeverArise : Prop :=
  (∀ s t : State, s.hazardInv = true → step s = .next t → t.hazardInv = true) ∧
  (∀ (i : Instr) (s t : State), s.hazardInv = true → exec i s = .next t → t.hazardInv = true)

/-- Every step keeps RAMBUF in its canonical form, the buffers the bytes of their registers (10_state.md R28), and EXIT_CODE and
the `Exit` record absent while the run is not over (R33, 44_sequencer.md R264), each by itself. -/
def Obligations.StateInvariantsKept : Prop :=
  ∀ s t : State, step s = .next t →
    (Memory.wf s.rambuf = true → Memory.wf t.rambuf = true) ∧
    (s.buffersInv = true → t.buffersInv = true) ∧
    (s.endInv = true → t.endInv = true)

/-- The reset state meets the invariants that every step keeps. -/
def Obligations.ResetMeetsInvariants : Prop :=
  State.reset.hazardInv = true ∧ Memory.wf State.reset.rambuf = true ∧ State.reset.buffersInv = true ∧
  State.reset.endInv = true

/-- No operation of the block writes an operand register (10_state.md R21), and TRACE is append-only (R40). -/
def Obligations.OperandsFixedTraceGrows : Prop :=
  ∀ (i : Instr) (s t : State), exec i s = .next t → t.operands = s.operands ∧ s.trace <+: t.trace

/-- "the only operation that ever drives `CS` to 1 is `INIT`" (42_transport.md R199; the two macros contain it): no other operation
appends a `Drive` of chip-select to inactive. -/
def Obligations.OnlyInitReleasesChipSelect : Prop :=
  ∀ (i : Instr) (s t : State), i ≠ .init → i ≠ .progSf → i ≠ .progFm → exec i s = .next t →
    ∃ new, t.trace = s.trace ++ new ∧ .drive .cs (!params.csActive) ∉ new ∧
      (s.pins.cs.level = .ofBool params.csActive → t.pins.cs.level = .ofBool params.csActive)

/-- The advance of SEQ_PC (10_state.md R31): a step that is not BTONE2, JMP or EXIT and leaves the run going ends at the next
row; a step that ends the run leaves SEQ_PC. -/
def Obligations.SeqPcAdvances : Prop :=
  ∀ (s t : State) (m : Mode) (i : Instr), s.mode = some m → program params m s.seqPc = some i → step s = .next t →
    (t.halted = true → t.seqPc = s.seqPc) ∧
    (t.halted = false → (∀ k, i ≠ .btone2 k) → (∀ k, i ≠ .jmp k) → t.seqPc = s.seqPc + 1)

/-- Verbose tracing changes nothing but the trace sink (10_state.md R26, 60_exceptions.md R318), both ways: an operation completes
with DEBUG 1 exactly if it completes with DEBUG 0, register for register and pin for pin the same, and the two traces differ in
`Trace` records only. -/
def Obligations.DebugChangesOnlyTraceRecords : Prop :=
  ∀ (i : Instr) (s : State),
    (∀ t, exec i { s with debug := some true } = .next t →
      ∃ u, exec i { s with debug := some false } = .next u ∧ u.sameButVerbose t) ∧
    (∀ u, exec i { s with debug := some false } = .next u →
      ∃ t, exec i { s with debug := some true } = .next t ∧ u.sameButVerbose t)

/-- The tone loop as an invariant of the step (44_sequencer.md R260): from every state in it the step completes in a state in it,
and EXIT_CODE is not written. -/
def Obligations.ToneLoopStep : Prop :=
  ∀ s : State, s.inToneLoop → ∃ t, step s = .next t ∧ t.inToneLoop ∧ t.exitCode = s.exitCode

/-- The tone table (41_tone_sweep.md R166): every entry is 2500 times the sine at its hundredth of a turn, rounded to nearest, and
none is within 0.036 of a tie; and what R167 adds of this table. The table is the spec's choice D7 (log entry 11). -/
def Obligations.ToneTableIsRoundedSine : Prop :=
  params.toneTable.length = 100 ∧
  (∀ (i : ℕ) (o : ℤ), params.toneTable[i]? = some o →
    o = round (2500 * Real.sin (2 * Real.pi * i / 100)) ∧ |(o : ℝ) - 2500 * Real.sin (2 * Real.pi * i / 100)| ≤ 0.464) ∧
  (params.toneTable[0]? = some 0 ∧ params.toneTable[50]? = some 0 ∧
    params.toneTable[25]? = some 2500 ∧ params.toneTable[75]? = some (-2500) ∧ params.toneTable.sum = 0)
end

