-- ==== Sys2Proof/Laws/State.lean ====
section
/-! SUPPORT. One lemma per field per named update of the state, so that no later proof unfolds a record update. -/

namespace Sys2Proof.Machine

/-! ### `State.perform` -/
@[simp] theorem perform_mode (e : Event) (s : State) : (s.perform e).mode = s.mode := rfl
@[simp] theorem perform_freq (e : Event) (s : State) : (s.perform e).freq = s.freq := rfl
@[simp] theorem perform_tone1 (e : Event) (s : State) : (s.perform e).tone1 = s.tone1 := rfl
@[simp] theorem perform_tone2 (e : Event) (s : State) : (s.perform e).tone2 = s.tone2 := rfl
@[simp] theorem perform_level (e : Event) (s : State) : (s.perform e).level = s.level := rfl
@[simp] theorem perform_debug (e : Event) (s : State) : (s.perform e).debug = s.debug := rfl
@[simp] theorem perform_ftw (e : Event) (s : State) : (s.perform e).ftw = s.ftw := rfl
@[simp] theorem perform_asfRaw (e : Event) (s : State) : (s.perform e).asfRaw = s.asfRaw := rfl
@[simp] theorem perform_asf (e : Event) (s : State) : (s.perform e).asf = s.asf := rfl
@[simp] theorem perform_arate (e : Event) (s : State) : (s.perform e).arate = s.arate := rfl
@[simp] theorem perform_ftwbuf (e : Event) (s : State) : (s.perform e).ftwbuf = s.ftwbuf := rfl
@[simp] theorem perform_asfbuf (e : Event) (s : State) : (s.perform e).asfbuf = s.asfbuf := rfl
@[simp] theorem perform_rscwbuf (e : Event) (s : State) : (s.perform e).rscwbuf = s.rscwbuf := rfl
@[simp] theorem perform_rambuf (e : Event) (s : State) : (s.perform e).rambuf = s.rambuf := rfl
@[simp] theorem perform_shreg (e : Event) (s : State) : (s.perform e).shreg = s.shreg := rfl
@[simp] theorem perform_bitcnt (e : Event) (s : State) : (s.perform e).bitcnt = s.bitcnt := rfl
@[simp] theorem perform_byteidx (e : Event) (s : State) : (s.perform e).byteidx = s.byteidx := rfl
@[simp] theorem perform_xlen (e : Event) (s : State) : (s.perform e).xlen = s.xlen := rfl
@[simp] theorem perform_seqPc (e : Event) (s : State) : (s.perform e).seqPc = s.seqPc := rfl
@[simp] theorem perform_warnHi (e : Event) (s : State) : (s.perform e).warnHi = s.warnHi := rfl
@[simp] theorem perform_halted (e : Event) (s : State) : (s.perform e).halted = s.halted := rfl
@[simp] theorem perform_exitCode (e : Event) (s : State) : (s.perform e).exitCode = s.exitCode := rfl
@[simp] theorem perform_pins (e : Event) (s : State) : (s.perform e).pins = s.pins.event e := rfl
@[simp] theorem perform_log (e : Event) (s : State) : (s.perform e).log = e :: s.log := rfl
@[simp] theorem perform_freeCount (e : Event) (s : State) : (s.perform e).freeCount = s.freeCount := rfl

/-! ### `State.setOut` -/
@[simp] theorem setOut_mode (p : Pin) (s : State) : (s.setOut p).mode = s.mode := rfl
@[simp] theorem setOut_freq (p : Pin) (s : State) : (s.setOut p).freq = s.freq := rfl
@[simp] theorem setOut_tone1 (p : Pin) (s : State) : (s.setOut p).tone1 = s.tone1 := rfl
@[simp] theorem setOut_tone2 (p : Pin) (s : State) : (s.setOut p).tone2 = s.tone2 := rfl
@[simp] theorem setOut_level (p : Pin) (s : State) : (s.setOut p).level = s.level := rfl
@[simp] theorem setOut_debug (p : Pin) (s : State) : (s.setOut p).debug = s.debug := rfl
@[simp] theorem setOut_ftw (p : Pin) (s : State) : (s.setOut p).ftw = s.ftw := rfl
@[simp] theorem setOut_asfRaw (p : Pin) (s : State) : (s.setOut p).asfRaw = s.asfRaw := rfl
@[simp] theorem setOut_asf (p : Pin) (s : State) : (s.setOut p).asf = s.asf := rfl
@[simp] theorem setOut_arate (p : Pin) (s : State) : (s.setOut p).arate = s.arate := rfl
@[simp] theorem setOut_ftwbuf (p : Pin) (s : State) : (s.setOut p).ftwbuf = s.ftwbuf := rfl
@[simp] theorem setOut_asfbuf (p : Pin) (s : State) : (s.setOut p).asfbuf = s.asfbuf := rfl
@[simp] theorem setOut_rscwbuf (p : Pin) (s : State) : (s.setOut p).rscwbuf = s.rscwbuf := rfl
@[simp] theorem setOut_rambuf (p : Pin) (s : State) : (s.setOut p).rambuf = s.rambuf := rfl
@[simp] theorem setOut_shreg (p : Pin) (s : State) : (s.setOut p).shreg = s.shreg := rfl
@[simp] theorem setOut_bitcnt (p : Pin) (s : State) : (s.setOut p).bitcnt = s.bitcnt := rfl
@[simp] theorem setOut_byteidx (p : Pin) (s : State) : (s.setOut p).byteidx = s.byteidx := rfl
@[simp] theorem setOut_xlen (p : Pin) (s : State) : (s.setOut p).xlen = s.xlen := rfl
@[simp] theorem setOut_seqPc (p : Pin) (s : State) : (s.setOut p).seqPc = s.seqPc := rfl
@[simp] theorem setOut_warnHi (p : Pin) (s : State) : (s.setOut p).warnHi = s.warnHi := rfl
@[simp] theorem setOut_halted (p : Pin) (s : State) : (s.setOut p).halted = s.halted := rfl
@[simp] theorem setOut_exitCode (p : Pin) (s : State) : (s.setOut p).exitCode = s.exitCode := rfl
@[simp] theorem setOut_pins (p : Pin) (s : State) : (s.setOut p).pins = s.pins.event (.dir p) := rfl
@[simp] theorem setOut_log (p : Pin) (s : State) : (s.setOut p).log = .dir p :: s.log := rfl
@[simp] theorem setOut_freeCount (p : Pin) (s : State) : (s.setOut p).freeCount = s.freeCount := rfl

/-! ### `State.drive` -/
@[simp] theorem drive_mode (p : Pin) (l : Bool) (s : State) : (s.drive p l).mode = s.mode := rfl
@[simp] theorem drive_freq (p : Pin) (l : Bool) (s : State) : (s.drive p l).freq = s.freq := rfl
@[simp] theorem drive_tone1 (p : Pin) (l : Bool) (s : State) : (s.drive p l).tone1 = s.tone1 := rfl
@[simp] theorem drive_tone2 (p : Pin) (l : Bool) (s : State) : (s.drive p l).tone2 = s.tone2 := rfl
@[simp] theorem drive_level (p : Pin) (l : Bool) (s : State) : (s.drive p l).level = s.level := rfl
@[simp] theorem drive_debug (p : Pin) (l : Bool) (s : State) : (s.drive p l).debug = s.debug := rfl
@[simp] theorem drive_ftw (p : Pin) (l : Bool) (s : State) : (s.drive p l).ftw = s.ftw := rfl
@[simp] theorem drive_asfRaw (p : Pin) (l : Bool) (s : State) : (s.drive p l).asfRaw = s.asfRaw := rfl
@[simp] theorem drive_asf (p : Pin) (l : Bool) (s : State) : (s.drive p l).asf = s.asf := rfl
@[simp] theorem drive_arate (p : Pin) (l : Bool) (s : State) : (s.drive p l).arate = s.arate := rfl
@[simp] theorem drive_ftwbuf (p : Pin) (l : Bool) (s : State) : (s.drive p l).ftwbuf = s.ftwbuf := rfl
@[simp] theorem drive_asfbuf (p : Pin) (l : Bool) (s : State) : (s.drive p l).asfbuf = s.asfbuf := rfl
@[simp] theorem drive_rscwbuf (p : Pin) (l : Bool) (s : State) : (s.drive p l).rscwbuf = s.rscwbuf := rfl
@[simp] theorem drive_rambuf (p : Pin) (l : Bool) (s : State) : (s.drive p l).rambuf = s.rambuf := rfl
@[simp] theorem drive_shreg (p : Pin) (l : Bool) (s : State) : (s.drive p l).shreg = s.shreg := rfl
@[simp] theorem drive_bitcnt (p : Pin) (l : Bool) (s : State) : (s.drive p l).bitcnt = s.bitcnt := rfl
@[simp] theorem drive_byteidx (p : Pin) (l : Bool) (s : State) : (s.drive p l).byteidx = s.byteidx := rfl
@[simp] theorem drive_xlen (p : Pin) (l : Bool) (s : State) : (s.drive p l).xlen = s.xlen := rfl
@[simp] theorem drive_seqPc (p : Pin) (l : Bool) (s : State) : (s.drive p l).seqPc = s.seqPc := rfl
@[simp] theorem drive_warnHi (p : Pin) (l : Bool) (s : State) : (s.drive p l).warnHi = s.warnHi := rfl
@[simp] theorem drive_halted (p : Pin) (l : Bool) (s : State) : (s.drive p l).halted = s.halted := rfl
@[simp] theorem drive_exitCode (p : Pin) (l : Bool) (s : State) : (s.drive p l).exitCode = s.exitCode := rfl
@[simp] theorem drive_pins (p : Pin) (l : Bool) (s : State) : (s.drive p l).pins = s.pins.event (.drive p l) := rfl
@[simp] theorem drive_log (p : Pin) (l : Bool) (s : State) : (s.drive p l).log = .drive p l :: s.log := rfl
@[simp] theorem drive_freeCount (p : Pin) (l : Bool) (s : State) : (s.drive p l).freeCount = s.freeCount := rfl

/-! ### `State.pause` -/
@[simp] theorem pause_mode (ms : ℕ) (s : State) : (s.pause ms).mode = s.mode := by unfold State.pause; split <;> rfl
@[simp] theorem pause_freq (ms : ℕ) (s : State) : (s.pause ms).freq = s.freq := by unfold State.pause; split <;> rfl
@[simp] theorem pause_tone1 (ms : ℕ) (s : State) : (s.pause ms).tone1 = s.tone1 := by unfold State.pause; split <;> rfl
@[simp] theorem pause_tone2 (ms : ℕ) (s : State) : (s.pause ms).tone2 = s.tone2 := by unfold State.pause; split <;> rfl
@[simp] theorem pause_level (ms : ℕ) (s : State) : (s.pause ms).level = s.level := by unfold State.pause; split <;> rfl
@[simp] theorem pause_debug (ms : ℕ) (s : State) : (s.pause ms).debug = s.debug := by unfold State.pause; split <;> rfl
@[simp] theorem pause_ftw (ms : ℕ) (s : State) : (s.pause ms).ftw = s.ftw := by unfold State.pause; split <;> rfl
@[simp] theorem pause_asfRaw (ms : ℕ) (s : State) : (s.pause ms).asfRaw = s.asfRaw := by unfold State.pause; split <;> rfl
@[simp] theorem pause_asf (ms : ℕ) (s : State) : (s.pause ms).asf = s.asf := by unfold State.pause; split <;> rfl
@[simp] theorem pause_arate (ms : ℕ) (s : State) : (s.pause ms).arate = s.arate := by unfold State.pause; split <;> rfl
@[simp] theorem pause_ftwbuf (ms : ℕ) (s : State) : (s.pause ms).ftwbuf = s.ftwbuf := by unfold State.pause; split <;> rfl
@[simp] theorem pause_asfbuf (ms : ℕ) (s : State) : (s.pause ms).asfbuf = s.asfbuf := by unfold State.pause; split <;> rfl
@[simp] theorem pause_rscwbuf (ms : ℕ) (s : State) : (s.pause ms).rscwbuf = s.rscwbuf := by unfold State.pause; split <;> rfl
@[simp] theorem pause_rambuf (ms : ℕ) (s : State) : (s.pause ms).rambuf = s.rambuf := by unfold State.pause; split <;> rfl
@[simp] theorem pause_shreg (ms : ℕ) (s : State) : (s.pause ms).shreg = s.shreg := by unfold State.pause; split <;> rfl
@[simp] theorem pause_bitcnt (ms : ℕ) (s : State) : (s.pause ms).bitcnt = s.bitcnt := by unfold State.pause; split <;> rfl
@[simp] theorem pause_byteidx (ms : ℕ) (s : State) : (s.pause ms).byteidx = s.byteidx := by unfold State.pause; split <;> rfl
@[simp] theorem pause_xlen (ms : ℕ) (s : State) : (s.pause ms).xlen = s.xlen := by unfold State.pause; split <;> rfl
@[simp] theorem pause_seqPc (ms : ℕ) (s : State) : (s.pause ms).seqPc = s.seqPc := by unfold State.pause; split <;> rfl
@[simp] theorem pause_warnHi (ms : ℕ) (s : State) : (s.pause ms).warnHi = s.warnHi := by unfold State.pause; split <;> rfl
@[simp] theorem pause_halted (ms : ℕ) (s : State) : (s.pause ms).halted = s.halted := by unfold State.pause; split <;> rfl
@[simp] theorem pause_exitCode (ms : ℕ) (s : State) : (s.pause ms).exitCode = s.exitCode := by unfold State.pause; split <;> rfl
@[simp] theorem pause_pins (ms : ℕ) (s : State) : (s.pause ms).pins = s.pins := by unfold State.pause; split <;> rfl
@[simp] theorem pause_log (ms : ℕ) (s : State) : (s.pause ms).log = if ms = 0 then s.log else .sleep ms :: s.log := by unfold State.pause; split <;> rfl
@[simp] theorem pause_freeCount (ms : ℕ) (s : State) : (s.pause ms).freeCount = s.freeCount := by unfold State.pause; split <;> rfl

/-! ### `State.advance` -/
@[simp] theorem advance_mode (s : State) : (s.advance).mode = s.mode := rfl
@[simp] theorem advance_freq (s : State) : (s.advance).freq = s.freq := rfl
@[simp] theorem advance_tone1 (s : State) : (s.advance).tone1 = s.tone1 := rfl
@[simp] theorem advance_tone2 (s : State) : (s.advance).tone2 = s.tone2 := rfl
@[simp] theorem advance_level (s : State) : (s.advance).level = s.level := rfl
@[simp] theorem advance_debug (s : State) : (s.advance).debug = s.debug := rfl
@[simp] theorem advance_ftw (s : State) : (s.advance).ftw = s.ftw := rfl
@[simp] theorem advance_asfRaw (s : State) : (s.advance).asfRaw = s.asfRaw := rfl
@[simp] theorem advance_asf (s : State) : (s.advance).asf = s.asf := rfl
@[simp] theorem advance_arate (s : State) : (s.advance).arate = s.arate := rfl
@[simp] theorem advance_ftwbuf (s : State) : (s.advance).ftwbuf = s.ftwbuf := rfl
@[simp] theorem advance_asfbuf (s : State) : (s.advance).asfbuf = s.asfbuf := rfl
@[simp] theorem advance_rscwbuf (s : State) : (s.advance).rscwbuf = s.rscwbuf := rfl
@[simp] theorem advance_rambuf (s : State) : (s.advance).rambuf = s.rambuf := rfl
@[simp] theorem advance_shreg (s : State) : (s.advance).shreg = s.shreg := rfl
@[simp] theorem advance_bitcnt (s : State) : (s.advance).bitcnt = s.bitcnt := rfl
@[simp] theorem advance_byteidx (s : State) : (s.advance).byteidx = s.byteidx := rfl
@[simp] theorem advance_xlen (s : State) : (s.advance).xlen = s.xlen := rfl
@[simp] theorem advance_seqPc (s : State) : (s.advance).seqPc = s.seqPc + 1 := rfl
@[simp] theorem advance_warnHi (s : State) : (s.advance).warnHi = s.warnHi := rfl
@[simp] theorem advance_halted (s : State) : (s.advance).halted = s.halted := rfl
@[simp] theorem advance_exitCode (s : State) : (s.advance).exitCode = s.exitCode := rfl
@[simp] theorem advance_pins (s : State) : (s.advance).pins = s.pins := rfl
@[simp] theorem advance_log (s : State) : (s.advance).log = s.log := rfl
@[simp] theorem advance_freeCount (s : State) : (s.advance).freeCount = s.freeCount := rfl

/-! ### `State.refusedEnd` -/
@[simp] theorem refusedEnd_mode (s : State) : (s.refusedEnd).mode = s.mode := rfl
@[simp] theorem refusedEnd_freq (s : State) : (s.refusedEnd).freq = s.freq := rfl
@[simp] theorem refusedEnd_tone1 (s : State) : (s.refusedEnd).tone1 = s.tone1 := rfl
@[simp] theorem refusedEnd_tone2 (s : State) : (s.refusedEnd).tone2 = s.tone2 := rfl
@[simp] theorem refusedEnd_level (s : State) : (s.refusedEnd).level = s.level := rfl
@[simp] theorem refusedEnd_debug (s : State) : (s.refusedEnd).debug = s.debug := rfl
@[simp] theorem refusedEnd_ftw (s : State) : (s.refusedEnd).ftw = s.ftw := rfl
@[simp] theorem refusedEnd_asfRaw (s : State) : (s.refusedEnd).asfRaw = s.asfRaw := rfl
@[simp] theorem refusedEnd_asf (s : State) : (s.refusedEnd).asf = s.asf := rfl
@[simp] theorem refusedEnd_arate (s : State) : (s.refusedEnd).arate = s.arate := rfl
@[simp] theorem refusedEnd_ftwbuf (s : State) : (s.refusedEnd).ftwbuf = s.ftwbuf := rfl
@[simp] theorem refusedEnd_asfbuf (s : State) : (s.refusedEnd).asfbuf = s.asfbuf := rfl
@[simp] theorem refusedEnd_rscwbuf (s : State) : (s.refusedEnd).rscwbuf = s.rscwbuf := rfl
@[simp] theorem refusedEnd_rambuf (s : State) : (s.refusedEnd).rambuf = s.rambuf := rfl
@[simp] theorem refusedEnd_shreg (s : State) : (s.refusedEnd).shreg = s.shreg := rfl
@[simp] theorem refusedEnd_bitcnt (s : State) : (s.refusedEnd).bitcnt = s.bitcnt := rfl
@[simp] theorem refusedEnd_byteidx (s : State) : (s.refusedEnd).byteidx = s.byteidx := rfl
@[simp] theorem refusedEnd_xlen (s : State) : (s.refusedEnd).xlen = s.xlen := rfl
@[simp] theorem refusedEnd_seqPc (s : State) : (s.refusedEnd).seqPc = s.seqPc := rfl
@[simp] theorem refusedEnd_warnHi (s : State) : (s.refusedEnd).warnHi = s.warnHi := rfl
@[simp] theorem refusedEnd_halted (s : State) : (s.refusedEnd).halted = true := rfl
@[simp] theorem refusedEnd_exitCode (s : State) : (s.refusedEnd).exitCode = none := rfl
@[simp] theorem refusedEnd_pins (s : State) : (s.refusedEnd).pins = s.pins := rfl
@[simp] theorem refusedEnd_log (s : State) : (s.refusedEnd).log = s.log := rfl
@[simp] theorem refusedEnd_freeCount (s : State) : (s.refusedEnd).freeCount = s.freeCount := rfl

/-! ### `State.verboseTrace` -/
@[simp] theorem verboseTrace_mode (s : State) : (s.verboseTrace).mode = s.mode := rfl
@[simp] theorem verboseTrace_freq (s : State) : (s.verboseTrace).freq = s.freq := rfl
@[simp] theorem verboseTrace_tone1 (s : State) : (s.verboseTrace).tone1 = s.tone1 := rfl
@[simp] theorem verboseTrace_tone2 (s : State) : (s.verboseTrace).tone2 = s.tone2 := rfl
@[simp] theorem verboseTrace_level (s : State) : (s.verboseTrace).level = s.level := rfl
@[simp] theorem verboseTrace_debug (s : State) : (s.verboseTrace).debug = s.debug := rfl
@[simp] theorem verboseTrace_ftw (s : State) : (s.verboseTrace).ftw = s.ftw := rfl
@[simp] theorem verboseTrace_asfRaw (s : State) : (s.verboseTrace).asfRaw = s.asfRaw := rfl
@[simp] theorem verboseTrace_asf (s : State) : (s.verboseTrace).asf = s.asf := rfl
@[simp] theorem verboseTrace_arate (s : State) : (s.verboseTrace).arate = s.arate := rfl
@[simp] theorem verboseTrace_ftwbuf (s : State) : (s.verboseTrace).ftwbuf = s.ftwbuf := rfl
@[simp] theorem verboseTrace_asfbuf (s : State) : (s.verboseTrace).asfbuf = s.asfbuf := rfl
@[simp] theorem verboseTrace_rscwbuf (s : State) : (s.verboseTrace).rscwbuf = s.rscwbuf := rfl
@[simp] theorem verboseTrace_rambuf (s : State) : (s.verboseTrace).rambuf = s.rambuf := rfl
@[simp] theorem verboseTrace_shreg (s : State) : (s.verboseTrace).shreg = s.shreg := rfl
@[simp] theorem verboseTrace_bitcnt (s : State) : (s.verboseTrace).bitcnt = s.bitcnt := rfl
@[simp] theorem verboseTrace_byteidx (s : State) : (s.verboseTrace).byteidx = s.byteidx := rfl
@[simp] theorem verboseTrace_xlen (s : State) : (s.verboseTrace).xlen = s.xlen := rfl
@[simp] theorem verboseTrace_seqPc (s : State) : (s.verboseTrace).seqPc = s.seqPc := rfl
@[simp] theorem verboseTrace_warnHi (s : State) : (s.verboseTrace).warnHi = s.warnHi := rfl
@[simp] theorem verboseTrace_halted (s : State) : (s.verboseTrace).halted = s.halted := rfl
@[simp] theorem verboseTrace_exitCode (s : State) : (s.verboseTrace).exitCode = s.exitCode := rfl
@[simp] theorem verboseTrace_pins (s : State) : (s.verboseTrace).pins = s.pins := rfl
@[simp] theorem verboseTrace_log (s : State) : (s.verboseTrace).log = .trace (Config.freeTraceText s.log.length) :: s.log := rfl
@[simp] theorem verboseTrace_freeCount (s : State) : (s.verboseTrace).freeCount = s.freeCount := rfl

/-! ### `State.releaseTransport` -/
@[simp] theorem releaseTransport_mode (s : State) : (s.releaseTransport).mode = s.mode := rfl
@[simp] theorem releaseTransport_freq (s : State) : (s.releaseTransport).freq = s.freq := rfl
@[simp] theorem releaseTransport_tone1 (s : State) : (s.releaseTransport).tone1 = s.tone1 := rfl
@[simp] theorem releaseTransport_tone2 (s : State) : (s.releaseTransport).tone2 = s.tone2 := rfl
@[simp] theorem releaseTransport_level (s : State) : (s.releaseTransport).level = s.level := rfl
@[simp] theorem releaseTransport_debug (s : State) : (s.releaseTransport).debug = s.debug := rfl
@[simp] theorem releaseTransport_ftw (s : State) : (s.releaseTransport).ftw = s.ftw := rfl
@[simp] theorem releaseTransport_asfRaw (s : State) : (s.releaseTransport).asfRaw = s.asfRaw := rfl
@[simp] theorem releaseTransport_asf (s : State) : (s.releaseTransport).asf = s.asf := rfl
@[simp] theorem releaseTransport_arate (s : State) : (s.releaseTransport).arate = s.arate := rfl
@[simp] theorem releaseTransport_ftwbuf (s : State) : (s.releaseTransport).ftwbuf = s.ftwbuf := rfl
@[simp] theorem releaseTransport_asfbuf (s : State) : (s.releaseTransport).asfbuf = s.asfbuf := rfl
@[simp] theorem releaseTransport_rscwbuf (s : State) : (s.releaseTransport).rscwbuf = s.rscwbuf := rfl
@[simp] theorem releaseTransport_rambuf (s : State) : (s.releaseTransport).rambuf = s.rambuf := rfl
@[simp] theorem releaseTransport_shreg (s : State) : (s.releaseTransport).shreg = some (Config.freeShreg s.freeCount) := rfl
@[simp] theorem releaseTransport_bitcnt (s : State) : (s.releaseTransport).bitcnt = some (Config.freeBitcnt s.freeCount) := rfl
@[simp] theorem releaseTransport_byteidx (s : State) : (s.releaseTransport).byteidx = some (Config.freeByteidx s.freeCount) := rfl
@[simp] theorem releaseTransport_xlen (s : State) : (s.releaseTransport).xlen = some (Config.freeXlen s.freeCount) := rfl
@[simp] theorem releaseTransport_seqPc (s : State) : (s.releaseTransport).seqPc = s.seqPc := rfl
@[simp] theorem releaseTransport_warnHi (s : State) : (s.releaseTransport).warnHi = s.warnHi := rfl
@[simp] theorem releaseTransport_halted (s : State) : (s.releaseTransport).halted = s.halted := rfl
@[simp] theorem releaseTransport_exitCode (s : State) : (s.releaseTransport).exitCode = s.exitCode := rfl
@[simp] theorem releaseTransport_pins (s : State) : (s.releaseTransport).pins = s.pins := rfl
@[simp] theorem releaseTransport_log (s : State) : (s.releaseTransport).log = s.log := rfl
@[simp] theorem releaseTransport_freeCount (s : State) : (s.releaseTransport).freeCount = s.freeCount + 1 := rfl

/-! ### `emitWarning` -/
@[simp] theorem emitWarning_mode (s : State) : (emitWarning s).mode = s.mode := rfl
@[simp] theorem emitWarning_freq (s : State) : (emitWarning s).freq = s.freq := rfl
@[simp] theorem emitWarning_tone1 (s : State) : (emitWarning s).tone1 = s.tone1 := rfl
@[simp] theorem emitWarning_tone2 (s : State) : (emitWarning s).tone2 = s.tone2 := rfl
@[simp] theorem emitWarning_level (s : State) : (emitWarning s).level = s.level := rfl
@[simp] theorem emitWarning_debug (s : State) : (emitWarning s).debug = s.debug := rfl
@[simp] theorem emitWarning_ftw (s : State) : (emitWarning s).ftw = s.ftw := rfl
@[simp] theorem emitWarning_asfRaw (s : State) : (emitWarning s).asfRaw = s.asfRaw := rfl
@[simp] theorem emitWarning_asf (s : State) : (emitWarning s).asf = s.asf := rfl
@[simp] theorem emitWarning_arate (s : State) : (emitWarning s).arate = s.arate := rfl
@[simp] theorem emitWarning_ftwbuf (s : State) : (emitWarning s).ftwbuf = s.ftwbuf := rfl
@[simp] theorem emitWarning_asfbuf (s : State) : (emitWarning s).asfbuf = s.asfbuf := rfl
@[simp] theorem emitWarning_rscwbuf (s : State) : (emitWarning s).rscwbuf = s.rscwbuf := rfl
@[simp] theorem emitWarning_rambuf (s : State) : (emitWarning s).rambuf = s.rambuf := rfl
@[simp] theorem emitWarning_shreg (s : State) : (emitWarning s).shreg = s.shreg := rfl
@[simp] theorem emitWarning_bitcnt (s : State) : (emitWarning s).bitcnt = s.bitcnt := rfl
@[simp] theorem emitWarning_byteidx (s : State) : (emitWarning s).byteidx = s.byteidx := rfl
@[simp] theorem emitWarning_xlen (s : State) : (emitWarning s).xlen = s.xlen := rfl
@[simp] theorem emitWarning_seqPc (s : State) : (emitWarning s).seqPc = s.seqPc := rfl
@[simp] theorem emitWarning_warnHi (s : State) : (emitWarning s).warnHi = true := rfl
@[simp] theorem emitWarning_halted (s : State) : (emitWarning s).halted = s.halted := rfl
@[simp] theorem emitWarning_exitCode (s : State) : (emitWarning s).exitCode = s.exitCode := rfl
@[simp] theorem emitWarning_pins (s : State) : (emitWarning s).pins = s.pins := rfl
@[simp] theorem emitWarning_log (s : State) : (emitWarning s).log = .diag .freqHigh :: s.log := rfl
@[simp] theorem emitWarning_freeCount (s : State) : (emitWarning s).freeCount = s.freeCount := rfl

/-! ### `exitRun` -/
@[simp] theorem exitRun_mode (code : ℕ) (s : State) : (exitRun code s).mode = s.mode := rfl
@[simp] theorem exitRun_freq (code : ℕ) (s : State) : (exitRun code s).freq = s.freq := rfl
@[simp] theorem exitRun_tone1 (code : ℕ) (s : State) : (exitRun code s).tone1 = s.tone1 := rfl
@[simp] theorem exitRun_tone2 (code : ℕ) (s : State) : (exitRun code s).tone2 = s.tone2 := rfl
@[simp] theorem exitRun_level (code : ℕ) (s : State) : (exitRun code s).level = s.level := rfl
@[simp] theorem exitRun_debug (code : ℕ) (s : State) : (exitRun code s).debug = s.debug := rfl
@[simp] theorem exitRun_ftw (code : ℕ) (s : State) : (exitRun code s).ftw = s.ftw := rfl
@[simp] theorem exitRun_asfRaw (code : ℕ) (s : State) : (exitRun code s).asfRaw = s.asfRaw := rfl
@[simp] theorem exitRun_asf (code : ℕ) (s : State) : (exitRun code s).asf = s.asf := rfl
@[simp] theorem exitRun_arate (code : ℕ) (s : State) : (exitRun code s).arate = s.arate := rfl
@[simp] theorem exitRun_ftwbuf (code : ℕ) (s : State) : (exitRun code s).ftwbuf = s.ftwbuf := rfl
@[simp] theorem exitRun_asfbuf (code : ℕ) (s : State) : (exitRun code s).asfbuf = s.asfbuf := rfl
@[simp] theorem exitRun_rscwbuf (code : ℕ) (s : State) : (exitRun code s).rscwbuf = s.rscwbuf := rfl
@[simp] theorem exitRun_rambuf (code : ℕ) (s : State) : (exitRun code s).rambuf = s.rambuf := rfl
@[simp] theorem exitRun_shreg (code : ℕ) (s : State) : (exitRun code s).shreg = s.shreg := rfl
@[simp] theorem exitRun_bitcnt (code : ℕ) (s : State) : (exitRun code s).bitcnt = s.bitcnt := rfl
@[simp] theorem exitRun_byteidx (code : ℕ) (s : State) : (exitRun code s).byteidx = s.byteidx := rfl
@[simp] theorem exitRun_xlen (code : ℕ) (s : State) : (exitRun code s).xlen = s.xlen := rfl
@[simp] theorem exitRun_seqPc (code : ℕ) (s : State) : (exitRun code s).seqPc = s.seqPc := rfl
@[simp] theorem exitRun_warnHi (code : ℕ) (s : State) : (exitRun code s).warnHi = s.warnHi := rfl
@[simp] theorem exitRun_halted (code : ℕ) (s : State) : (exitRun code s).halted = true := rfl
@[simp] theorem exitRun_exitCode (code : ℕ) (s : State) : (exitRun code s).exitCode = some code := rfl
@[simp] theorem exitRun_pins (code : ℕ) (s : State) : (exitRun code s).pins = s.pins := rfl
@[simp] theorem exitRun_log (code : ℕ) (s : State) : (exitRun code s).log = .exit code :: s.log := rfl
@[simp] theorem exitRun_freeCount (code : ℕ) (s : State) : (exitRun code s).freeCount = s.freeCount := rfl

/-! ### `raiseFatal` -/
@[simp] theorem raiseFatal_mode (cause : FatalCause) (s : State) : (raiseFatal cause s).mode = s.mode := rfl
@[simp] theorem raiseFatal_freq (cause : FatalCause) (s : State) : (raiseFatal cause s).freq = s.freq := rfl
@[simp] theorem raiseFatal_tone1 (cause : FatalCause) (s : State) : (raiseFatal cause s).tone1 = s.tone1 := rfl
@[simp] theorem raiseFatal_tone2 (cause : FatalCause) (s : State) : (raiseFatal cause s).tone2 = s.tone2 := rfl
@[simp] theorem raiseFatal_level (cause : FatalCause) (s : State) : (raiseFatal cause s).level = s.level := rfl
@[simp] theorem raiseFatal_debug (cause : FatalCause) (s : State) : (raiseFatal cause s).debug = s.debug := rfl
@[simp] theorem raiseFatal_ftw (cause : FatalCause) (s : State) : (raiseFatal cause s).ftw = s.ftw := rfl
@[simp] theorem raiseFatal_asfRaw (cause : FatalCause) (s : State) : (raiseFatal cause s).asfRaw = s.asfRaw := rfl
@[simp] theorem raiseFatal_asf (cause : FatalCause) (s : State) : (raiseFatal cause s).asf = s.asf := rfl
@[simp] theorem raiseFatal_arate (cause : FatalCause) (s : State) : (raiseFatal cause s).arate = s.arate := rfl
@[simp] theorem raiseFatal_ftwbuf (cause : FatalCause) (s : State) : (raiseFatal cause s).ftwbuf = s.ftwbuf := rfl
@[simp] theorem raiseFatal_asfbuf (cause : FatalCause) (s : State) : (raiseFatal cause s).asfbuf = s.asfbuf := rfl
@[simp] theorem raiseFatal_rscwbuf (cause : FatalCause) (s : State) : (raiseFatal cause s).rscwbuf = s.rscwbuf := rfl
@[simp] theorem raiseFatal_rambuf (cause : FatalCause) (s : State) : (raiseFatal cause s).rambuf = s.rambuf := rfl
@[simp] theorem raiseFatal_shreg (cause : FatalCause) (s : State) : (raiseFatal cause s).shreg = s.shreg := rfl
@[simp] theorem raiseFatal_bitcnt (cause : FatalCause) (s : State) : (raiseFatal cause s).bitcnt = s.bitcnt := rfl
@[simp] theorem raiseFatal_byteidx (cause : FatalCause) (s : State) : (raiseFatal cause s).byteidx = s.byteidx := rfl
@[simp] theorem raiseFatal_xlen (cause : FatalCause) (s : State) : (raiseFatal cause s).xlen = s.xlen := rfl
@[simp] theorem raiseFatal_seqPc (cause : FatalCause) (s : State) : (raiseFatal cause s).seqPc = s.seqPc := rfl
@[simp] theorem raiseFatal_warnHi (cause : FatalCause) (s : State) : (raiseFatal cause s).warnHi = Config.freeWarnHi s.freeCount := rfl
@[simp] theorem raiseFatal_halted (cause : FatalCause) (s : State) : (raiseFatal cause s).halted = true := rfl
@[simp] theorem raiseFatal_exitCode (cause : FatalCause) (s : State) : (raiseFatal cause s).exitCode = some 1 := rfl
@[simp] theorem raiseFatal_pins (cause : FatalCause) (s : State) : (raiseFatal cause s).pins = s.pins := rfl
@[simp] theorem raiseFatal_log (cause : FatalCause) (s : State) : (raiseFatal cause s).log = .exit 1 :: .diag (.fatal cause) :: s.log := rfl
@[simp] theorem raiseFatal_freeCount (cause : FatalCause) (s : State) : (raiseFatal cause s).freeCount = s.freeCount + 1 := rfl

/-! ### `State.trace` -/
@[simp] theorem trace_perform (e : Event) (s : State) : (s.perform e).trace = s.trace ++ [e] := by
  simp [State.trace]
@[simp] theorem trace_drive (p : Pin) (l : Bool) (s : State) : (s.drive p l).trace = s.trace ++ [.drive p l] := by
  simp [State.trace]
@[simp] theorem trace_setOut (p : Pin) (s : State) : (s.setOut p).trace = s.trace ++ [.dir p] := by
  simp [State.trace]
@[simp] theorem trace_exitRun (code : ℕ) (s : State) : (exitRun code s).trace = s.trace ++ [.exit code] := by
  simp [State.trace]
@[simp] theorem trace_emitWarning (s : State) : (emitWarning s).trace = s.trace ++ [.diag .freqHigh] := by
  simp [State.trace]
@[simp] theorem trace_raiseFatal (cause : FatalCause) (s : State) :
    (raiseFatal cause s).trace = s.trace ++ [.diag (.fatal cause), .exit 1] := by
  simp [State.trace]
@[simp] theorem trace_releaseTransport (s : State) : s.releaseTransport.trace = s.trace := rfl
@[simp] theorem trace_advance (s : State) : s.advance.trace = s.trace := rfl
@[simp] theorem trace_refusedEnd (s : State) : s.refusedEnd.trace = s.trace := rfl
@[simp] theorem trace_pause (ms : ℕ) (s : State) : (s.pause ms).trace = s.trace ++ pauseEvents ms := by
  unfold State.pause pauseEvents; split <;> simp

end Sys2Proof.Machine
end

