-- ==== Sys2Proof/Laws/Codecs.lean ====
section
/-! SUPPORT. What the codecs and the ramp-sweep generator answer at `params`: one lemma per shared operation, saying once
everything it can do. -/

namespace Sys2Proof.Machine

/-! ## Rounding -/

theorem floor_apply (x : ℚ) : Rounding.floor.apply x = ⌊x⌋ := rfl

theorem rne0_apply {x : ℚ} (h : 0 ≤ x) : Rounding.rne0.apply x = ⌊x + 1 / 2⌋ := by
  show (if 0 ≤ x then _ else _) = _
  rw [if_pos h]
  rfl

/-! ## Byte lists of an integer -/

/-- `be_4` of a tuning word, as bytes of the integer. -/
theorem be4_toList (w : ℤ) : (be4 (BitVec.ofInt 32 w)).toList = wordBytes w := by
  have h24 : (BitVec.ofInt 32 w).extractLsb' 24 8 = BitVec.ofInt 8 (w / 2 ^ 24) := by
    apply BitVec.eq_of_toNat_eq
    simp only [BitVec.extractLsb'_toNat, BitVec.toNat_ofInt, Nat.shiftRight_eq_div_pow]
    omega
  have h16 : (BitVec.ofInt 32 w).extractLsb' 16 8 = BitVec.ofInt 8 (w / 2 ^ 16) := by
    apply BitVec.eq_of_toNat_eq
    simp only [BitVec.extractLsb'_toNat, BitVec.toNat_ofInt, Nat.shiftRight_eq_div_pow]
    omega
  have h8 : (BitVec.ofInt 32 w).extractLsb' 8 8 = BitVec.ofInt 8 (w / 2 ^ 8) := by
    apply BitVec.eq_of_toNat_eq
    simp only [BitVec.extractLsb'_toNat, BitVec.toNat_ofInt, Nat.shiftRight_eq_div_pow]
    omega
  have h0 : (BitVec.ofInt 32 w).extractLsb' 0 8 = BitVec.ofInt 8 w := by
    apply BitVec.eq_of_toNat_eq
    simp only [BitVec.extractLsb'_toNat, BitVec.toNat_ofInt, Nat.shiftRight_eq_div_pow]
    omega
  simp [be4, wordBytes, h24, h16, h8, h0]

/-- `le_2` of a rate, as bytes of the integer. -/
theorem le2_toList (r : ℤ) : (le2 (BitVec.ofInt 16 r)).toList = [BitVec.ofInt 8 r, BitVec.ofInt 8 (r / 256)] := by
  have h8 : (BitVec.ofInt 16 r).extractLsb' 8 8 = BitVec.ofInt 8 (r / 256) := by
    apply BitVec.eq_of_toNat_eq
    simp only [BitVec.extractLsb'_toNat, BitVec.toNat_ofInt, Nat.shiftRight_eq_div_pow]
    omega
  have h0 : (BitVec.ofInt 16 r).extractLsb' 0 8 = BitVec.ofInt 8 r := by
    apply BitVec.eq_of_toNat_eq
    simp only [BitVec.extractLsb'_toNat, BitVec.toNat_ofInt, Nat.shiftRight_eq_div_pow]
    omega
  simp [le2, h8, h0]

/-- The two bytes of an amplitude (40_codecs.md R134, R135), as bytes of the number. -/
theorem be2_asf (n : ℕ) (h : n ≤ 16383) :
    be2 ((BitVec.ofNat 14 n).setWidth 16) = #v[BitVec.ofNat 8 (n / 256), BitVec.ofNat 8 n] := by
  have h8 : ((BitVec.ofNat 14 n).setWidth 16).extractLsb' 8 8 = BitVec.ofNat 8 (n / 256) := by
    apply BitVec.eq_of_toNat_eq
    simp only [BitVec.extractLsb'_toNat, BitVec.toNat_setWidth, BitVec.toNat_ofNat, Nat.shiftRight_eq_div_pow]
    omega
  have h0 : ((BitVec.ofNat 14 n).setWidth 16).extractLsb' 0 8 = BitVec.ofNat 8 n := by
    apply BitVec.eq_of_toNat_eq
    simp only [BitVec.extractLsb'_toNat, BitVec.toNat_setWidth, BitVec.toNat_ofNat, Nat.shiftRight_eq_div_pow]
    omega
  simp [be2, h8, h0]

/-! ## ENC_FTW (40_codecs.md R121, R123) -/

theorem sysfreq_pos : 0 < params.sysfreq := by decide +kernel

theorem tuningWord_params (f : ℚ) : tuningWord params f = wordOf f := rfl

theorem wordOf_nonneg {f : ℚ} (h : 0 ≤ f) : 0 ≤ wordOf f := by
  have := sysfreq_pos
  exact Int.floor_nonneg.mpr (by positivity)

theorem wordOf_neg {f : ℚ} (h : f < 0) : wordOf f < 0 := by
  unfold wordOf
  rw [Int.floor_lt, Int.cast_zero]
  exact div_neg_of_neg_of_pos (by nlinarith) sysfreq_pos

theorem wordOf_mono {f g : ℚ} (h : f ≤ g) : wordOf f ≤ wordOf g := by
  unfold wordOf
  have := sysfreq_pos
  exact Int.floor_le_floor (by gcongr)

/-- The state after ENC_FTW has stored the word of `f`: FTW and its bytes. -/
def State.withWord (s : State) (f : ℚ) : State :=
  { s with ftw := some (BitVec.ofInt 32 (wordOf f)), ftwbuf := some (be4 (BitVec.ofInt 32 (wordOf f))) }

/-- ENC_FTW on its domain, by the value of DEBUG. -/
theorem encFtw_domain {f : ℚ} (s : State) (h0 : 0 ≤ f) (h1 : wordOf f < 2 ^ 32) :
    encFtw params f s = match s.readDebug with
      | .error e => .error e
      | .ok true => .ok (s.withWord f).verboseTrace
      | .ok false => .ok (s.withWord f) := by
  have h2 : ¬ (2 : ℤ) ^ params.ftwBits ≤ tuningWord params f := not_le.mpr h1
  unfold encFtw
  rw [if_neg (not_lt.mpr h0), if_neg h2]
  rfl

theorem encFtw_quiet {f : ℚ} {s : State} (hd : s.debug = some false) (h0 : 0 ≤ f) (h1 : wordOf f < 2 ^ 32) :
    encFtw params f s = .ok (s.withWord f) := by
  rw [encFtw_domain s h0 h1]; simp [State.readDebug, readReg, hd]

theorem encFtw_verbose {f : ℚ} {s : State} (hd : s.debug = some true) (h0 : 0 ≤ f) (h1 : wordOf f < 2 ^ 32) :
    encFtw params f s = .ok (s.withWord f).verboseTrace := by
  rw [encFtw_domain s h0 h1]; simp [State.readDebug, readReg, hd]

theorem encFtw_negative {f : ℚ} (s : State) (h : f < 0) : encFtw params f s = .error .negativeFrequency := by
  simp [encFtw, h]

theorem encFtw_overflow {f : ℚ} (s : State) (h : 2 ^ 32 ≤ wordOf f) :
    encFtw params f s = .error .tuningWordOverflow := by
  have hf : ¬ f < 0 := fun hf => by have := wordOf_neg hf; omega
  have h2 : (2 : ℤ) ^ params.ftwBits ≤ tuningWord params f := h
  simp [encFtw, hf, h2]

/-- ENC_FTW completes on its domain once the host has loaded DEBUG. -/
theorem encFtw_ok {f : ℚ} {s : State} (hd : s.debug ≠ none) (h0 : 0 ≤ f) (h1 : wordOf f < 2 ^ 32) :
    ∃ t, encFtw params f s = .ok t := by
  cases hx : s.debug with
  | none => exact absurd hx hd
  | some b => cases b
              · exact ⟨_, encFtw_quiet hx h0 h1⟩
              · exact ⟨_, encFtw_verbose hx h0 h1⟩

/-- All ENC_FTW can do where it answers. -/
theorem encFtw_cases {f : ℚ} {s t : State} (h : encFtw params f s = .ok t) :
    0 ≤ f ∧ wordOf f < 2 ^ 32 ∧
      ((s.debug = some false ∧ t = s.withWord f) ∨ (s.debug = some true ∧ t = (s.withWord f).verboseTrace)) := by
  have h0 : 0 ≤ f := by
    by_contra hn
    rw [encFtw_negative s (not_le.mp hn)] at h; cases h
  have h1 : wordOf f < 2 ^ 32 := by
    by_contra hn
    rw [encFtw_overflow s (not_lt.mp hn)] at h; cases h
  refine ⟨h0, h1, ?_⟩
  rw [encFtw_domain s h0 h1] at h
  cases hd : s.debug with
  | none => simp [State.readDebug, readReg, hd] at h
  | some b =>
    cases b <;> simp only [State.readDebug, readReg, hd] at h <;> cases h
    · exact .inl ⟨rfl, rfl⟩
    · exact .inr ⟨rfl, rfl⟩

/-! ## GEN_RSCW (41_tone_sweep.md R162, R164) -/

/-- The rate of a tone, as the statements write it. -/
theorem rampRate_params {t : ℚ} (h : 0 ≤ t) :
    rampRate params t = ⌊1000000 / (if t = 0 then 1000 else t) + 1 / 2⌋ := by
  have hx : (0 : ℚ) ≤ 1000000 / (if t = 0 then 1000 else t) := by split <;> positivity
  exact rne0_apply hx

/-- The state after GEN_RSCW has stored the rate of `t`: ARATE and the control word's bytes. -/
def State.withRate (s : State) (t : ℚ) : State :=
  { s with
    arate := some (BitVec.ofInt 16 (rampRate params t))
    rscwbuf := some (rscwBytes params (BitVec.ofInt 16 (rampRate params t))) }

theorem genRscw_admitted {t : ℚ} (s : State) (h : toneAdmitted t) : genRscw params t s = .ok (s.withRate t) := by
  have h2 : ¬ 65535 < rampRate params t := by rw [rampRate_params h.1]; exact not_lt.mpr h.2
  unfold genRscw
  rw [if_neg (not_lt.mpr h.1), if_neg h2]
  rfl

theorem genRscw_negative {t : ℚ} (s : State) (h : t < 0) : genRscw params t s = .error .negativeTone := by
  simp [genRscw, h]

theorem genRscw_overflow {t : ℚ} (s : State) (h : 0 ≤ t) (h2 : ¬ toneAdmitted t) :
    genRscw params t s = .error .rampRateOverflow := by
  have h3 : 65535 < rampRate params t := by
    rw [rampRate_params h]
    exact not_le.mp fun hc => h2 ⟨h, hc⟩
  simp [genRscw, not_lt.mpr h, h3]

/-- All GEN_RSCW can do where it answers. -/
theorem genRscw_cases {t : ℚ} {s u : State} (h : genRscw params t s = .ok u) : toneAdmitted t ∧ u = s.withRate t := by
  by_cases h0 : t < 0
  · rw [genRscw_negative s h0] at h; cases h
  · by_cases ha : toneAdmitted t
    · rw [genRscw_admitted s ha] at h; exact ⟨ha, by cases h; rfl⟩
    · rw [genRscw_overflow s (not_lt.mp h0) ha] at h; cases h

/-- The bytes of the control word (R162). -/
theorem rscwBytes_toList {t : ℚ} (h : 0 ≤ t) :
    (rscwBytes params (BitVec.ofInt 16 (rampRate params t))).toList = rscwPayload t := by
  rw [rscwBytes, Vector.toList_append, le2_toList, rampRate_params h]
  rfl

/-! ## CHK_ASF (40_codecs.md R134) -/

theorem ampOutOfRange_params (n : ℕ) : ampOutOfRange params n = decide (16383 < n) := rfl

/-- All CHK_ASF can do where it answers. -/
theorem chkAsf_cases {s t : State} (h : chkAsf params s = .ok t) :
    ∃ n, s.asfRaw = some n ∧
      ((n ≤ 16383 ∧ t = storeAsf n s) ∨ (16383 < n ∧ t = raiseFatal .ampRange s)) := by
  cases hr : s.asfRaw with
  | none => simp [chkAsf, State.readAsfRaw, readReg, hr] at h
  | some n =>
    refine ⟨n, rfl, ?_⟩
    by_cases hn : 16383 < n
    · simp only [chkAsf, State.readAsfRaw, readReg, hr, ampOutOfRange_params, hn, decide_true, if_true] at h
      cases h; exact .inr ⟨hn, rfl⟩
    · simp only [chkAsf, State.readAsfRaw, readReg, hr, ampOutOfRange_params, hn, decide_false] at h
      cases h; exact .inl ⟨not_lt.mp hn, rfl⟩

end Sys2Proof.Machine
end

