-- ==== Sys2Proof/Laws/Decibel.lean ====
section
/-! SUPPORT. The exact evaluation of the decibel formula (40_codecs.md R131, R137): the bitwise search finds a number that
passes a test and whose successor does not, the integer test is the real one, so `decibelScale` is the rounded real formula. -/

namespace Sys2Proof.Machine

/-- The search answers a number that passes and whose successor does not, if its start passes and its end does not. For a
downward closed test that is the greatest number that passes. -/
theorem greatestBelow_spec (test : ℕ → Bool)
    (bits acc : ℕ) (ha : test acc = true) (hb : test (acc + 2 ^ bits) = false) :
    test (greatestBelow test bits acc) = true ∧ test (greatestBelow test bits acc + 1) = false := by
  induction bits generalizing acc with
  | zero => exact ⟨ha, by simpa [greatestBelow] using hb⟩
  | succ k ih =>
    unfold greatestBelow
    split
    · rename_i ht
      refine ih (acc + 2 ^ k) ht ?_
      rw [← hb]
      congr 1
      rw [pow_succ]
      omega
    · rename_i ht
      exact ih acc ha (by simpa using ht)

/-- The nearest test of R137 over the reals. -/
theorem decibelAtLeast_rne0 (k : ℕ) (e : ℚ) (n : ℕ) :
    decibelAtLeast .rne0 k e.num e.den n = true ↔ n = 0 ∨ (n : ℝ) ≤ (10 : ℝ) ^ (e : ℝ) * k + 1 / 2 := by
  rcases Nat.eq_zero_or_pos n with rfl | hn
  · simp [decibelAtLeast, e.den_nz]
  have hq : e.den ≠ 0 := e.den_nz
  have h10 : (0 : ℝ) < 10 := by norm_num
  have hpow : ((10 : ℝ) ^ (e : ℝ)) ^ e.den = (10 : ℝ) ^ e.num := by
    rw [← Real.rpow_natCast, ← Real.rpow_mul h10.le, ← Real.rpow_intCast]
    congr 1
    exact_mod_cast Rat.mul_den_eq_num e
  have hsplit : (10 : ℝ) ^ e.num = (10 : ℝ) ^ e.num.toNat / (10 : ℝ) ^ (-e.num).toNat := by
    rw [← zpow_natCast, ← zpow_natCast, ← zpow_sub₀ h10.ne']
    congr 1
    omega
  have hne : n ≠ 0 := by omega
  simp only [decibelAtLeast, decide_eq_true_eq, hne, false_or]
  have hpos : (0 : ℝ) < (10 : ℝ) ^ (-e.num).toNat := by positivity
  have h1 : ((2 * n - 1) ^ e.den * 10 ^ (-e.num).toNat ≤ (2 * k) ^ e.den * 10 ^ e.num.toNat)
      ↔ (2 * (n : ℝ) - 1) ^ e.den * 10 ^ (-e.num).toNat ≤ (2 * (k : ℝ)) ^ e.den * 10 ^ e.num.toNat := by
    have hc : ((2 * n - 1 : ℕ) : ℝ) = 2 * (n : ℝ) - 1 := by
      rw [Nat.cast_sub (by omega)]
      push_cast
      ring
    rw [← hc]
    norm_cast
  rw [h1, ← le_div_iff₀ hpos, mul_div_assoc, ← hsplit, ← hpow, ← mul_pow]
  have hl : (0 : ℝ) ≤ 2 * (n : ℝ) - 1 := by
    have : (1 : ℝ) ≤ n := by exact_mod_cast hn
    linarith
  rw [pow_le_pow_iff_left₀ hl (by positivity) hq]
  constructor <;> intro h <;> linarith

/-- The range of the search is large enough. -/
theorem decibelScale_range (k : ℕ) (e : ℚ) :
    (10 : ℝ) ^ (e : ℝ) * k + 1 / 2 < ((2 ^ (k.log2 + 1 + 4 * (e.num.toNat / e.den + 1)) : ℕ) : ℝ) := by
  set m := e.num.toNat / e.den + 1 with hm
  have he : (e : ℝ) ≤ m := by
    have : e ≤ m := by
      rw [← Rat.num_div_den e, div_le_iff₀ (by exact_mod_cast e.den_pos)]
      have h1 : e.num ≤ e.num.toNat := Int.self_le_toNat _
      have h2 : e.num.toNat < m * e.den := by
        rw [hm, Nat.add_mul, one_mul]
        have := Nat.div_add_mod e.num.toNat e.den
        have := Nat.mod_lt e.num.toNat e.den_pos
        rw [mul_comm]
        omega
      have h3 : e.num ≤ m * e.den := by omega
      exact_mod_cast h3
    exact_mod_cast this
  have h10 : (10 : ℝ) ^ (e : ℝ) ≤ (16 : ℝ) ^ m := by
    calc (10 : ℝ) ^ (e : ℝ) ≤ (10 : ℝ) ^ (m : ℝ) := Real.rpow_le_rpow_of_exponent_le (by norm_num) he
      _ = (10 : ℝ) ^ m := Real.rpow_natCast _ _
      _ ≤ (16 : ℝ) ^ m := by gcongr; norm_num
  have hk : (k : ℝ) + 1 ≤ (2 : ℝ) ^ (k.log2 + 1) := by
    exact_mod_cast Nat.lt_log2_self
  have h16 : (1 : ℝ) ≤ (16 : ℝ) ^ m := one_le_pow₀ (by norm_num)
  have hprod : ((2 ^ (k.log2 + 1 + 4 * m) : ℕ) : ℝ) = (2 : ℝ) ^ (k.log2 + 1) * (16 : ℝ) ^ m := by
    push_cast
    rw [pow_add, pow_mul]
    norm_num
  rw [hprod]
  have hk0 : (0 : ℝ) ≤ k := by positivity
  calc (10 : ℝ) ^ (e : ℝ) * k + 1 / 2 ≤ (16 : ℝ) ^ m * k + 1 / 2 := by gcongr
    _ < (16 : ℝ) ^ m * (k + 1) := by linarith
    _ ≤ (2 : ℝ) ^ (k.log2 + 1) * (16 : ℝ) ^ m := by rw [mul_comm]; gcongr

/-- `decibelScale` to nearest is the rounded real formula of R131. -/
theorem decibelScale_rne0 (k : ℕ) (d : ℚ) :
    (decibelScale .rne0 k d : ℤ) = ⌊(10 : ℝ) ^ ((d : ℝ) / 20) * k + 1 / 2⌋ := by
  set e := d / 20 with he
  have hcast : (d : ℝ) / 20 = (e : ℝ) := by rw [he]; push_cast; rfl
  have hbound : decibelAtLeast .rne0 k e.num e.den
      (0 + 2 ^ (k.log2 + 1 + 4 * (e.num.toNat / e.den + 1))) = false := by
    rw [← Bool.not_eq_true, decibelAtLeast_rne0, zero_add, not_or, not_le]
    exact ⟨by positivity, decibelScale_range k e⟩
  obtain ⟨h1, h2⟩ := greatestBelow_spec _ _ 0 ((decibelAtLeast_rne0 k e 0).mpr (.inl rfl)) hbound
  rw [decibelAtLeast_rne0] at h1
  rw [← Bool.not_eq_true, decibelAtLeast_rne0, not_or, not_le] at h2
  rw [hcast, eq_comm, Int.floor_eq_iff]
  show ((decibelScale .rne0 k d : ℤ) : ℝ) ≤ _ ∧ _
  have hval : decibelScale .rne0 k d = greatestBelow (decibelAtLeast .rne0 k e.num e.den)
      (k.log2 + 1 + 4 * (e.num.toNat / e.den + 1)) 0 := rfl
  rw [hval]
  constructor
  · rcases h1 with h | h
    · rw [h]
      have : (0 : ℝ) < (10 : ℝ) ^ (e : ℝ) := Real.rpow_pos_of_pos (by norm_num) _
      push_cast
      positivity
    · exact_mod_cast h
  · have := h2.2
    push_cast at this ⊢
    exact this

end Sys2Proof.Machine
end

