-- ==== Sys2Proof/Laws/Memory.lean ====
section
/-! SUPPORT. The laws of RAMBUF (20_memory.md R62): read after write, writes elsewhere, and that every operation keeps the
canonical form. -/

namespace Sys2Proof.Machine

@[simp] theorem memGet_nil (a : ℕ) : memGet [] a = none := rfl

theorem memGet_memSet_same (m : List Host.Cell) (a : ℕ) (b : Byte) : memGet (memSet m a b) a = some b := by
  induction m with
  | nil => simp [memSet, memGet]
  | cons c rest ih =>
    obtain ⟨k, v⟩ := c
    unfold memSet
    split
    · simp [memGet]
    · split
      · simp [memGet]
      · rename_i h
        simp [memGet, Ne.symm h, ih]

theorem memGet_memSet_other (m : List Host.Cell) (a x : ℕ) (b : Byte) (h : x ≠ a) :
    memGet (memSet m a b) x = memGet m x := by
  induction m with
  | nil => simp [memSet, memGet, Ne.symm h]
  | cons c rest ih =>
    obtain ⟨k, v⟩ := c
    unfold memSet
    split
    · simp [memGet, Ne.symm h]
    · split
      · rename_i hak
        subst hak
        simp [memGet, Ne.symm h]
      · simp [memGet, ih]

/-- A write of one byte, read anywhere. -/
theorem memGet_memSet (m : List Host.Cell) (a x : ℕ) (b : Byte) :
    memGet (memSet m a b) x = if x = a then some b else memGet m x := by
  split
  · rename_i h; subst h; exact memGet_memSet_same m x b
  · rename_i h; exact memGet_memSet_other m a x b h

/-- A write of consecutive bytes, read anywhere. -/
theorem memGet_memSetBytes (m : List Host.Cell) (a : ℕ) (bs : List Byte) (x : ℕ) :
    memGet (memSetBytes m a bs) x = if a ≤ x ∧ x < a + bs.length then bs[x - a]? else memGet m x := by
  induction bs generalizing m a with
  | nil => simp [memSetBytes]
  | cons b rest ih =>
    simp only [memSetBytes, ih, memGet_memSet, List.length_cons]
    by_cases hx : x = a
    · subst hx; simp
    · by_cases hr : a + 1 ≤ x ∧ x < a + 1 + rest.length
      · have : x - a = (x - (a + 1)) + 1 := by omega
        rw [if_pos hr, if_pos (by omega), this]
        simp
      · have hr' : ¬(a ≤ x ∧ x < a + (rest.length + 1)) := by omega
        rw [if_neg hr, if_neg hx, if_neg hr']

theorem Memory.rising_mono {lo hi : ℕ} {m : List Host.Cell} (h : Memory.rising hi m = true) (hle : lo ≤ hi) :
    Memory.rising lo m = true := by
  cases m with
  | nil => rfl
  | cons c rest =>
    obtain ⟨k, v⟩ := c
    simp only [Memory.rising, Bool.and_eq_true, decide_eq_true_eq] at h ⊢
    exact ⟨by omega, h.2⟩

theorem memSet_rising (m : List Host.Cell) (bound a : ℕ) (b : Byte) (h : Memory.rising bound m = true)
    (ha : bound ≤ a) : Memory.rising bound (memSet m a b) = true := by
  induction m generalizing bound with
  | nil => simp [memSet, Memory.rising, ha]
  | cons c rest ih =>
    obtain ⟨k, v⟩ := c
    simp only [Memory.rising, Bool.and_eq_true, decide_eq_true_eq] at h
    unfold memSet
    split
    · simp only [Memory.rising, Bool.and_eq_true, decide_eq_true_eq]
      exact ⟨ha, by omega, h.2⟩
    · split
      · rename_i _ hk
        simp only [Memory.rising, Bool.and_eq_true, decide_eq_true_eq]
        exact ⟨ha, hk ▸ h.2⟩
      · simp only [Memory.rising, Bool.and_eq_true, decide_eq_true_eq]
        exact ⟨h.1, ih (k + 1) h.2 (by omega)⟩

theorem memSet_mem {m : List Host.Cell} {a : ℕ} {b : Byte} {c : Host.Cell} (h : c ∈ memSet m a b) :
    c = (a, b) ∨ c ∈ m := by
  induction m with
  | nil => simpa [memSet] using h
  | cons d rest ih =>
    obtain ⟨k, v⟩ := d
    unfold memSet at h
    split at h
    · simpa using h
    · split at h
      · rcases List.mem_cons.mp h with h | h
        · exact .inl h
        · exact .inr (List.mem_cons_of_mem _ h)
      · rcases List.mem_cons.mp h with h | h
        · exact .inr (by simp [h])
        · rcases ih h with h | h
          · exact .inl h
          · exact .inr (List.mem_cons_of_mem _ h)

theorem memSet_wf {m : List Host.Cell} {a : ℕ} {b : Byte} (h : Memory.wf m = true) (ha : a < rambufSize) :
    Memory.wf (memSet m a b) = true := by
  simp only [Memory.wf, Bool.and_eq_true, List.all_eq_true, decide_eq_true_eq] at h ⊢
  refine ⟨memSet_rising m 0 a b h.1 (by omega), fun c hc => ?_⟩
  rcases memSet_mem hc with rfl | hc
  · exact ha
  · exact h.2 c hc

theorem memSetBytes_wf {m : List Host.Cell} {a : ℕ} {bs : List Byte} (h : Memory.wf m = true)
    (ha : a + bs.length ≤ rambufSize) : Memory.wf (memSetBytes m a bs) = true := by
  induction bs generalizing m a with
  | nil => exact h
  | cons b rest ih =>
    simp only [List.length_cons] at ha
    exact ih (memSet_wf h (by omega)) (by omega)

/-- A write to RAMBUF answers only with the bytes written, and keeps the canonical form. -/
theorem ramWrite_cases {a : ℕ} {v : List Byte} {s t : State} (h : s.ramWrite a v = .ok t) :
    a + v.length ≤ rambufSize ∧ t = { s with rambuf := memSetBytes s.rambuf a v } := by
  unfold State.ramWrite at h
  split at h
  · cases h
  · exact ⟨by omega, by cases h; rfl⟩

theorem ramWrite_keeps_wf {a : ℕ} {v : List Byte} {s t : State} (h : s.ramWrite a v = .ok t)
    (hw : Memory.wf s.rambuf = true) : Memory.wf t.rambuf = true := by
  obtain ⟨hl, rfl⟩ := ramWrite_cases h
  exact memSetBytes_wf hw hl

/-- A read of consecutive bytes answers exactly the bytes that stand there. -/
theorem memGetBytes_ok {m : List Host.Cell} {a : ℕ} {bs : List Byte}
    (h : ∀ k (hk : k < bs.length), memGet m (a + k) = some bs[k]) : memGetBytes m a bs.length = .ok bs := by
  induction bs generalizing a with
  | nil => rfl
  | cons b rest ih =>
    have h0 : memGet m a = some b := h 0 (by simp)
    have hr : memGetBytes m (a + 1) rest.length = .ok rest := by
      refine ih fun k hk => ?_
      have := h (k + 1) (by simp; omega)
      simpa [Nat.add_assoc, Nat.add_comm 1 k] using this
    simp [memGetBytes, readReg, h0, hr]

theorem memGetBytes_length {m : List Host.Cell} {a n : ℕ} {bs : List Byte} (h : memGetBytes m a n = .ok bs) :
    bs.length = n := by
  induction n generalizing a bs with
  | zero => cases h; rfl
  | succ k ih =>
    unfold memGetBytes at h
    split at h
    · rename_i hb; cases h; simp [ih hb]
    · cases h
    · cases h

theorem ramRead_length {a n : ℕ} {s : State} {bs : List Byte} (h : s.ramRead a n = .ok bs) : bs.length = n := by
  unfold State.ramRead at h
  split at h
  · cases h
  · exact memGetBytes_length h

end Sys2Proof.Machine
end

