-- ==== Sys2Proof/Laws/Transport.lean ====
section
/-! SUPPORT. What the transport operations do, in closed form: the events they append, the pins they leave, and that they
touch nothing else. -/

namespace Sys2Proof.Machine

@[simp] theorem replay_nil (ps : Pins) : ps.replay [] = ps := rfl
@[simp] theorem replay_cons (ps : Pins) (e : Event) (es : List Event) : ps.replay (e :: es) = (ps.event e).replay es := rfl
@[simp] theorem replay_append (ps : Pins) (es fs : List Event) : ps.replay (es ++ fs) = (ps.replay es).replay fs := by
  simp [Pins.replay, List.foldl_append]

theorem hazardFree_append (ps : Pins) (es fs : List Event) :
    hazardFree ps (es ++ fs) = (hazardFree ps es && hazardFree (ps.replay es) fs) := by
  induction es generalizing ps with
  | nil => simp [hazardFree]
  | cons e rest ih => simp [hazardFree, ih, Bool.and_assoc]

/-- The events of one byte (42_transport.md R194). -/
def byteEvents (b : Byte) : List Event := (bitsMsbFirst b).flatMap bitEvents

theorem frameEvents_eq (c : Config) (i : Byte) (d : List Byte) :
    frameEvents c i d = .drive .cs c.csActive :: (byteEvents i ++ (d.flatMap byteEvents ++ strobeEvents c)) := by
  simp only [frameEvents, frameBits, List.flatMap_cons, List.flatMap_append, List.flatMap_assoc, List.append_assoc]
  rfl

/-- SHIFT_BYTE (R194): its 24 events, SHREG and BITCNT empty, nothing else. -/
theorem shiftByte_eq (b : Byte) (s : State) :
    shiftByte b s = { s with
      pins := s.pins.replay (byteEvents b), log := (byteEvents b).reverse ++ s.log,
      shreg := some 0, bitcnt := some 0 } := by
  simp [shiftByte, shiftBits, byteEvents, bitsMsbFirst, bitEvents, State.drive, State.perform]

/-- The payload loop of XFER: the events of its bytes, the shift registers empty, BYTEIDX at the last byte. -/
theorem shiftPayload_eq (j : ℕ) (d : List Byte) (s : State) :
    ∃ sh bc bi, shiftPayload j d s = { s with
      pins := s.pins.replay (d.flatMap byteEvents), log := (d.flatMap byteEvents).reverse ++ s.log,
      shreg := sh, bitcnt := bc, byteidx := bi } := by
  induction d generalizing j s with
  | nil => exact ⟨s.shreg, s.bitcnt, s.byteidx, rfl⟩
  | cons b rest ih =>
    obtain ⟨sh, bc, bi, h⟩ := ih (j + 1) (shiftByte b { s with byteidx := some j })
    refine ⟨sh, bc, bi, ?_⟩
    rw [shiftPayload, h, shiftByte_eq]
    simp

/-- STROBE (R196): its events, nothing else. -/
theorem strobe_eq (c : Config) (s : State) :
    strobe c s = { s with
      pins := s.pins.replay (strobeEvents c), log := (strobeEvents c).reverse ++ s.log } := by
  unfold strobe strobeEvents State.pause pauseEvents State.drive State.perform
  split <;> split <;> split <;> simp [Pins.event]

/-- The steps of XFER (R192): the events of its frame, and nothing but pins, trace and transport registers changes. -/
theorem xferSteps_eq (c : Config) (i : Byte) (d : List Byte) (s : State) :
    ∃ sh bc bi xl, xferSteps c i d s = { s with
      pins := s.pins.replay (frameEvents c i d), log := (frameEvents c i d).reverse ++ s.log,
      shreg := sh, bitcnt := bc, byteidx := bi, xlen := xl } := by
  unfold xferSteps
  rw [shiftByte_eq]
  obtain ⟨sh, bc, bi, h⟩ := shiftPayload_eq 0 d
    { ({ s with xlen := some d.length } : State).drive .cs c.csActive with
      pins := (({ s with xlen := some d.length } : State).drive .cs c.csActive).pins.replay (byteEvents i)
      log := (byteEvents i).reverse ++ (({ s with xlen := some d.length } : State).drive .cs c.csActive).log
      shreg := some 0, bitcnt := some 0 }
  refine ⟨sh, bc, bi, some d.length, ?_⟩
  rw [h, strobe_eq, frameEvents_eq]
  simp [State.drive, State.perform]

/-- The state after a complete XFER (R192): the events of the frame, and the transport registers unspecified (10_state.md R29). -/
def afterXfer (c : Config) (i : Byte) (d : List Byte) (s : State) : State :=
  { s with
    pins := s.pins.replay (frameEvents c i d), log := (frameEvents c i d).reverse ++ s.log }.releaseTransport

/-- XFER (R192): with all pins outputs it answers `afterXfer`. -/
theorem xfer_of_allOut (c : Config) (i : Byte) (d : List Byte) (s : State) (h : s.pins.allOut = true) :
    xfer c i d s = .ok (afterXfer c i d s) := by
  obtain ⟨sh, bc, bi, xl, hx⟩ := xferSteps_eq c i d s
  simp [xfer, h, hx, afterXfer, State.releaseTransport]

/-- XFER with a pin still at direction `in` (R191). -/
theorem xfer_of_not_allOut (c : Config) (i : Byte) (d : List Byte) (s : State) (h : s.pins.allOut = false) :
    xfer c i d s = .error .pinNotConfigured := by
  simp [xfer, h]

/-- All XFER can do. -/
theorem xfer_cases {c : Config} {i : Byte} {d : List Byte} {s t : State} (h : xfer c i d s = .ok t) :
    s.pins.allOut = true ∧ t = afterXfer c i d s := by
  cases ha : s.pins.allOut
  · rw [xfer_of_not_allOut c i d s ha] at h; cases h
  · rw [xfer_of_allOut c i d s ha] at h
    exact ⟨rfl, by cases h; rfl⟩

@[simp] theorem afterXfer_mode (c : Config) (i : Byte) (d : List Byte) (s : State) : (afterXfer c i d s).mode = s.mode := by simp [afterXfer]
@[simp] theorem afterXfer_freq (c : Config) (i : Byte) (d : List Byte) (s : State) : (afterXfer c i d s).freq = s.freq := by simp [afterXfer]
@[simp] theorem afterXfer_tone1 (c : Config) (i : Byte) (d : List Byte) (s : State) : (afterXfer c i d s).tone1 = s.tone1 := by simp [afterXfer]
@[simp] theorem afterXfer_tone2 (c : Config) (i : Byte) (d : List Byte) (s : State) : (afterXfer c i d s).tone2 = s.tone2 := by simp [afterXfer]
@[simp] theorem afterXfer_level (c : Config) (i : Byte) (d : List Byte) (s : State) : (afterXfer c i d s).level = s.level := by simp [afterXfer]
@[simp] theorem afterXfer_debug (c : Config) (i : Byte) (d : List Byte) (s : State) : (afterXfer c i d s).debug = s.debug := by simp [afterXfer]
@[simp] theorem afterXfer_ftw (c : Config) (i : Byte) (d : List Byte) (s : State) : (afterXfer c i d s).ftw = s.ftw := by simp [afterXfer]
@[simp] theorem afterXfer_asfRaw (c : Config) (i : Byte) (d : List Byte) (s : State) : (afterXfer c i d s).asfRaw = s.asfRaw := by simp [afterXfer]
@[simp] theorem afterXfer_asf (c : Config) (i : Byte) (d : List Byte) (s : State) : (afterXfer c i d s).asf = s.asf := by simp [afterXfer]
@[simp] theorem afterXfer_arate (c : Config) (i : Byte) (d : List Byte) (s : State) : (afterXfer c i d s).arate = s.arate := by simp [afterXfer]
@[simp] theorem afterXfer_ftwbuf (c : Config) (i : Byte) (d : List Byte) (s : State) : (afterXfer c i d s).ftwbuf = s.ftwbuf := by simp [afterXfer]
@[simp] theorem afterXfer_asfbuf (c : Config) (i : Byte) (d : List Byte) (s : State) : (afterXfer c i d s).asfbuf = s.asfbuf := by simp [afterXfer]
@[simp] theorem afterXfer_rscwbuf (c : Config) (i : Byte) (d : List Byte) (s : State) : (afterXfer c i d s).rscwbuf = s.rscwbuf := by simp [afterXfer]
@[simp] theorem afterXfer_rambuf (c : Config) (i : Byte) (d : List Byte) (s : State) : (afterXfer c i d s).rambuf = s.rambuf := by simp [afterXfer]
@[simp] theorem afterXfer_seqPc (c : Config) (i : Byte) (d : List Byte) (s : State) : (afterXfer c i d s).seqPc = s.seqPc := by simp [afterXfer]
@[simp] theorem afterXfer_warnHi (c : Config) (i : Byte) (d : List Byte) (s : State) : (afterXfer c i d s).warnHi = s.warnHi := by simp [afterXfer]
@[simp] theorem afterXfer_halted (c : Config) (i : Byte) (d : List Byte) (s : State) : (afterXfer c i d s).halted = s.halted := by simp [afterXfer]
@[simp] theorem afterXfer_exitCode (c : Config) (i : Byte) (d : List Byte) (s : State) : (afterXfer c i d s).exitCode = s.exitCode := by simp [afterXfer]
@[simp] theorem afterXfer_pins (c : Config) (i : Byte) (d : List Byte) (s : State) :
    (afterXfer c i d s).pins = s.pins.replay (frameEvents c i d) := by simp [afterXfer]
@[simp] theorem afterXfer_log (c : Config) (i : Byte) (d : List Byte) (s : State) :
    (afterXfer c i d s).log = (frameEvents c i d).reverse ++ s.log := by simp [afterXfer]
@[simp] theorem afterXfer_trace (c : Config) (i : Byte) (d : List Byte) (s : State) :
    (afterXfer c i d s).trace = s.trace ++ frameEvents c i d := by
  simp [afterXfer, State.trace]

end Sys2Proof.Machine
end

