-- ==== Sys2Proof/Laws/Observer.lean ====
section
/-! SUPPORT. What the observer rule (20_memory.md R66) makes of the events the transport emits: one bit, one byte, one frame;
and that the other events commit nothing. -/

namespace Sys2Proof.Machine

/-- The observer after a list of events, from a given point. -/
def Observer.replay (c : Config) (o : Observer) (es : List Event) : Observer := es.foldl (Observer.event c) o

@[simp] theorem observerReplay_nil (c : Config) (o : Observer) : o.replay c [] = o := rfl
@[simp] theorem observerReplay_cons (c : Config) (o : Observer) (e : Event) (es : List Event) :
    o.replay c (e :: es) = (o.event c e).replay c es := rfl
@[simp] theorem observerReplay_append (c : Config) (o : Observer) (es fs : List Event) :
    o.replay c (es ++ fs) = (o.replay c es).replay c fs := by
  simp [Observer.replay, List.foldl_append]

theorem observe_append (c : Config) (es fs : List Event) : observe c (es ++ fs) = (observe c es).replay c fs := by
  simp [observe, Observer.replay, List.foldl_append]

theorem sample_pins (o : Observer) (v : Bool) : (o.sample v).pins = o.pins := by
  by_cases h : o.count = 7 <;> simp [Observer.sample, h]

/-- The observer's levels are those of the pin latches. -/
theorem event_pins (c : Config) (o : Observer) (e : Event) : (o.event c e).pins = o.pins.event e := by
  unfold Observer.event
  split
  · split
    · split <;> simp [sample_pins]
    · rfl
  · split <;> rfl
  · split <;> rfl
  · split <;> rfl
  · rfl

theorem observerReplay_pins (c : Config) (o : Observer) (es : List Event) : (o.replay c es).pins = o.pins.replay es := by
  induction es generalizing o with
  | nil => rfl
  | cons e rest ih => simp [ih, event_pins]

/-- The observer's levels after a trace from power-on. -/
theorem observe_pins (c : Config) (es : List Event) : (observe c es).pins = Pins.atReset.replay es :=
  observerReplay_pins c .start es

/-- No pulse is in progress while the strobe is not high. -/
def Observer.pulseOnlyHigh (o : Observer) : Prop := o.pins.ioupdate.level ≠ .high → o.staged = none

/-- An event that is no Drive of IOUPDATE leaves the pulse in progress, and the strobe, alone. -/
theorem event_staged (c : Config) (o : Observer) (e : Event) (h : ∀ l, e ≠ .drive .ioupdate l) :
    (o.event c e).staged = o.staged ∧ (o.pins.event e).ioupdate.level = o.pins.ioupdate.level := by
  have hs : ∀ (o : Observer) (v : Bool), (o.sample v).staged = o.staged := by
    intro o v; by_cases h : o.count = 7 <;> simp [Observer.sample, h]
  constructor
  · unfold Observer.event
    split
    · split
      · split <;> simp [hs]
      · rfl
    · exact absurd rfl (h true)
    · exact absurd rfl (h false)
    · split <;> rfl
    · rfl
  · cases e with
    | drive p l => cases p <;> first | rfl | exact absurd rfl (h l)
    | dir p => cases p <;> rfl
    | sleep ms => rfl
    | diag k => rfl
    | trace text => rfl
    | exit code => rfl

/-- Every trace leaves the observer with a pulse in progress only while the strobe is high (R66). -/
theorem observe_pulseOnlyHigh (c : Config) (es : List Event) : (observe c es).pulseOnlyHigh := by
  have key : ∀ o : Observer, o.pulseOnlyHigh → (o.replay c es).pulseOnlyHigh := by
    induction es with
    | nil => exact fun o h => h
    | cons e rest ih =>
      intro o h
      refine ih _ fun hl => ?_
      rw [event_pins] at hl
      by_cases he : ∃ l, e = .drive .ioupdate l
      · obtain ⟨l, rfl⟩ := he
        cases l with
        | true => exact absurd rfl hl
        | false =>
          by_cases hi : o.pins.ioupdate.level = .high
          · simp [Observer.event, hi]
          · simpa [Observer.event, hi] using h hi
      · obtain ⟨h1, h2⟩ := event_staged c o e (fun l hl => he ⟨l, hl⟩)
        rw [h1]
        exact h (by rwa [h2] at hl)
  exact key .start fun _ => rfl

/-- The levels at which a bit is sampled. -/
def Observer.listening (c : Config) (o : Observer) : Prop :=
  o.pins.cs.level = .ofBool c.csActive ∧ o.pins.sclk.level = .low

/-- The observer with other pin levels. -/
def Observer.withPins (o : Observer) (ps : Pins) : Observer := { o with pins := ps }

theorem sample_withPins (o : Observer) (ps : Pins) (v : Bool) : (o.withPins ps).sample v = (o.sample v).withPins ps := by
  by_cases h : o.count = 7 <;> simp [Observer.sample, Observer.withPins, h]

theorem samples_withPins (us : List Bool) (o : Observer) (ps : Pins) :
    us.foldl Observer.sample (o.withPins ps) = (us.foldl Observer.sample o).withPins ps := by
  induction us generalizing o with
  | nil => rfl
  | cons u us ih => rw [List.foldl_cons, sample_withPins, ih, List.foldl_cons]

/-- One bit of the transport (R194) is one sample. -/
theorem replay_bitEvents {c : Config} {o : Observer} (h : o.listening c) (v : Bool) :
    o.replay c (bitEvents v) = (o.sample v).withPins (o.pins.replay (bitEvents v)) := by
  obtain ⟨hc, hs⟩ := h
  by_cases h7 : o.count = 7 <;> cases v <;>
    simp [bitEvents, Observer.event, Pins.event, Pins.set, Pins.get, hc, hs, Level.ofBool, Observer.sample,
      Observer.withPins, h7]

theorem listening_after_bit {c : Config} {o : Observer} (h : o.listening c) (v : Bool) :
    (o.replay c (bitEvents v)).listening c := by
  obtain ⟨hc, -⟩ := h
  refine ⟨?_, ?_⟩ <;> rw [observerReplay_pins]
  · simpa [bitEvents, Pins.event, Pins.set, Pins.get] using hc
  · simp [bitEvents, Pins.event, Pins.set, Pins.get, Level.ofBool]

/-- A list of bits is a list of samples. -/
theorem replay_bits {c : Config} (vs : List Bool) {o : Observer} (h : o.listening c) :
    o.replay c (vs.flatMap bitEvents) = (vs.foldl Observer.sample o).withPins (o.pins.replay (vs.flatMap bitEvents)) ∧
    (o.replay c (vs.flatMap bitEvents)).listening c := by
  induction vs generalizing o with
  | nil => exact ⟨rfl, h⟩
  | cons v rest ih =>
    obtain ⟨h1, h2⟩ := ih (listening_after_bit h v)
    rw [List.flatMap_cons, observerReplay_append]
    refine ⟨?_, h2⟩
    rw [h1, observerReplay_pins, replay_append, replay_bitEvents h v, samples_withPins]
    rfl

/-- Eight bits, most significant first, put the byte together. -/
theorem byte_of_bits (b : Byte) :
    (bitsMsbFirst b).foldl (fun (acc : Byte) v => (acc <<< 1) ||| (if v then 1 else 0)) 0 = b := by
  have h : ∀ n : Fin (2 ^ 8),
      (bitsMsbFirst (.ofFin n)).foldl (fun (acc : Byte) v => (acc <<< 1) ||| (if v then 1 else 0)) 0 = .ofFin n := by
    decide +kernel
  exact h b.toFin

theorem sample_byte (b : Byte) (o : Observer) (h : o.count = 0) (ha : o.acc = 0) :
    (bitsMsbFirst b).foldl Observer.sample o = { o with bytes := b :: o.bytes } := by
  have key := byte_of_bits b
  simp only [bitsMsbFirst, List.foldl_cons, List.foldl_nil] at key ⊢
  simp only [Observer.sample, h, ha]
  simp only [Nat.zero_add, Nat.reduceAdd, Nat.reduceEqDiff, if_false, if_true, OfNat.zero_ne_ofNat,
    OfNat.one_ne_ofNat, key]

/-- One byte of the transport is one byte collected. -/
theorem replay_byteEvents {c : Config} {o : Observer} (hl : o.listening c) (h : o.count = 0) (ha : o.acc = 0) (b : Byte) :
    o.replay c (byteEvents b) = { o with bytes := b :: o.bytes, pins := o.pins.replay (byteEvents b) } ∧
      (o.replay c (byteEvents b)).listening c := by
  obtain ⟨h1, h2⟩ := replay_bits (bitsMsbFirst b) hl
  refine ⟨?_, h2⟩
  rw [byteEvents, h1, sample_byte b o h ha]
  rfl

/-- The bytes of a payload are collected in order. -/
theorem replay_payload {c : Config} (d : List Byte) {o : Observer} (hl : o.listening c) (h : o.count = 0) (ha : o.acc = 0) :
    o.replay c (d.flatMap byteEvents) =
      { o with bytes := d.reverse ++ o.bytes, pins := o.pins.replay (d.flatMap byteEvents) } ∧
    (o.replay c (d.flatMap byteEvents)).listening c := by
  induction d generalizing o with
  | nil => exact ⟨rfl, hl⟩
  | cons b rest ih =>
    obtain ⟨h1, h2⟩ := replay_byteEvents hl h ha b
    obtain ⟨h3, h4⟩ := ih h2 (by rw [h1]; exact h) (by rw [h1]; exact ha)
    rw [List.flatMap_cons, observerReplay_append]
    refine ⟨?_, h4⟩
    rw [h3, observerReplay_pins, replay_append, h1]
    simp

/-- The strobe pulse commits the bytes collected (R66). -/
theorem replay_strobeEvents (c : Config) (o : Observer) (hi : o.pins.ioupdate.level = .low) :
    o.replay c (strobeEvents c) =
      { o with acc := 0, count := 0, bytes := [], staged := none,
               done := (Observer.frameOf o.bytes).toList ++ o.done, pins := o.pins.replay (strobeEvents c) } := by
  unfold strobeEvents pauseEvents
  split <;> split <;> split <;>
    simp [Observer.event, Pins.event, Pins.set, Pins.get, hi, Level.ofBool]

/-- A complete frame (R192) from an observer between two frames: exactly that frame is committed. -/
theorem replay_frameEvents (c : Config) (o : Observer) (i : Byte) (d : List Byte) (ho : o.idle = true)
    (hs : o.pins.sclk.level = .low) (hi : o.pins.ioupdate.level = .low) :
    o.replay c (frameEvents c i d) =
      { o with done := { instr := i, payload := d } :: o.done, pins := o.pins.replay (frameEvents c i d) } := by
  simp only [Observer.idle, Bool.and_eq_true, beq_iff_eq] at ho
  obtain ⟨⟨⟨h0, h1⟩, h2⟩, h3⟩ := ho
  rw [frameEvents_eq, observerReplay_cons]
  set o1 := o.event c (.drive .cs c.csActive) with ho1
  have e1 : o1 = { o with pins := o.pins.event (.drive .cs c.csActive) } := rfl
  have hl : o1.listening c := by
    rw [e1]
    exact ⟨by simp [Pins.event, Pins.set, Pins.get], by simpa [Pins.event, Pins.set, Pins.get] using hs⟩
  rw [observerReplay_append, observerReplay_append]
  obtain ⟨b1, b2⟩ := replay_byteEvents hl (by rw [e1]; exact h0) (by rw [e1]; exact h1) i
  obtain ⟨p1, p2⟩ := replay_payload d b2 (by rw [b1, e1]; exact h0) (by rw [b1, e1]; exact h1)
  have hio : ∀ (es : List Event) (ps : Pins), (∀ e ∈ es, ∃ p l, e = .drive p l ∧ p ≠ Pin.ioupdate) →
      (ps.replay es).ioupdate.level = ps.ioupdate.level := by
    intro es
    induction es with
    | nil => intro ps _; rfl
    | cons e rest ih =>
      intro ps h
      obtain ⟨p, l, rfl, hp⟩ := h e (by simp)
      rw [replay_cons, ih _ (fun e he => h e (by simp [he]))]
      cases p <;> first | rfl | exact absurd rfl hp
  have hbytes : ∀ b, ∀ e ∈ byteEvents b, ∃ p l, e = .drive p l ∧ p ≠ Pin.ioupdate := by
    intro b e he
    simp only [byteEvents, bitEvents, List.mem_flatMap, List.mem_cons, List.not_mem_nil, or_false] at he
    obtain ⟨v, -, rfl | rfl | rfl⟩ := he <;> exact ⟨_, _, rfl, by decide⟩
  rw [replay_strobeEvents]
  · rw [p1, b1, e1]
    simp [Observer.frameOf, h0, h1, h2, h3, replay_append]
  · rw [observerReplay_pins, observerReplay_pins, hio, hio, e1]
    · simpa [Pins.event, Pins.set, Pins.get] using hi
    · exact hbytes i
    · intro e he
      obtain ⟨b, -, hb⟩ := List.mem_flatMap.mp he
      exact hbytes b e hb

end Sys2Proof.Machine
end

