-- ==== Sys2Proof/Laws/PerInstr.lean ====
section
/-! SUPPORT. The family `Placement`, one lemma per constructor: the frame of a register write reads back as that register, and
an operation with a row is what its program has at that row. -/

namespace Sys2Proof.Laws

open Sys2Proof.Machine

/-- The instruction byte of the operation's frame names its register and nothing else (30_encoding.md R99), and where the
operation stands in a program, that row holds it and it is well formed (10_state.md R30). -/
def Placement.Statement (i : Instr) : Prop :=
  (∀ r, i.chipReg? = some r → r.instr = i.onWire ∧ ChipReg.ofAddr params (r.addr params) = some r) ∧
  (∀ m pc, slotOf params i = some (m, pc) → program params m pc = some i ∧ i.wellFormed = true)

/-- A register write standing at one row. -/
theorem placement_of {i : Instr} {r : ChipReg} {m : Mode} {pc : StepIndex} (hr : i.chipReg? = some r)
    (hw : r.instr = i.onWire) (ha : ChipReg.ofAddr params (r.addr params) = some r)
    (hs : slotOf params i = some (m, pc)) (hp : program params m pc = some i) (hf : i.wellFormed = true) :
    Placement.Statement i := by
  refine ⟨fun q hq => ?_, fun n k hk => ?_⟩
  · obtain rfl : r = q := Option.some.inj (hr.symm.trans hq)
    exact ⟨hw, ha⟩
  · obtain ⟨rfl, rfl⟩ : m = n ∧ pc = k := by simpa using hs.symm.trans hk
    exact ⟨hp, hf⟩

/-- An internal operation standing at one row. -/
theorem placement_internal {i : Instr} {m : Mode} {pc : StepIndex} (hr : i.chipReg? = none)
    (hs : slotOf params i = some (m, pc)) (hp : program params m pc = some i) (hf : i.wellFormed = true) :
    Placement.Statement i := by
  refine ⟨fun q hq => (by rw [hr] at hq; cases hq), fun n k hk => ?_⟩
  obtain ⟨rfl, rfl⟩ : m = n ∧ pc = k := by simpa using hs.symm.trans hk
  exact ⟨hp, hf⟩

/-- An operation that stands at no row. -/
theorem placement_none {i : Instr} (hr : i.chipReg? = none) (hs : slotOf params i = none) : Placement.Statement i :=
  ⟨fun q hq => (by rw [hr] at hq; cases hq), fun n k hk => (by rw [hs] at hk; cases hk)⟩

theorem Placement.wrCfr1 : Placement.Statement .wrCfr1 := placement_of rfl rfl rfl rfl rfl rfl
theorem Placement.wrArr : Placement.Statement .wrArr := placement_of rfl rfl rfl rfl rfl rfl
theorem Placement.wrCfr2 : Placement.Statement .wrCfr2 := placement_of rfl rfl rfl rfl rfl rfl
theorem Placement.wrAsf : Placement.Statement .wrAsf := placement_of rfl rfl rfl rfl rfl rfl
theorem Placement.wrFtw0 : Placement.Statement .wrFtw0 := placement_of rfl rfl rfl rfl rfl rfl
theorem Placement.wrRam : Placement.Statement .wrRam := placement_of rfl rfl rfl rfl rfl rfl
theorem Placement.wrRscw (t : ToneReg) : Placement.Statement (.wrRscw t) := by
  cases t <;> exact placement_of rfl rfl rfl rfl rfl rfl
theorem Placement.encFtw (f : ℚ) : Placement.Statement (.encFtw f) := placement_none rfl rfl
theorem Placement.encAsfRel (d : ℚ) : Placement.Statement (.encAsfRel d) := placement_none rfl rfl
theorem Placement.encAsfDbm (p : ℚ) : Placement.Statement (.encAsfDbm p) := placement_none rfl rfl
theorem Placement.encAsfInt (n : ℕ) : Placement.Statement (.encAsfInt n) := placement_none rfl rfl
theorem Placement.chkAsf : Placement.Statement .chkAsf := placement_none rfl rfl
theorem Placement.genRscw (t : ℚ) : Placement.Statement (.genRscw t) := placement_none rfl rfl
theorem Placement.genRamtab (c : Carrier) : Placement.Statement (.genRamtab c) := by
  cases c with
  | value hz => exact placement_none rfl rfl
  | freq => exact placement_internal rfl rfl rfl rfl
theorem Placement.xfer (b : Byte) (d : List Byte) : Placement.Statement (.xfer b d) := placement_none rfl rfl
theorem Placement.shiftByte (b : Byte) : Placement.Statement (.shiftByte b) := placement_none rfl rfl
theorem Placement.strobe : Placement.Statement .strobe := placement_none rfl rfl
theorem Placement.validate : Placement.Statement .validate := placement_internal rfl rfl rfl rfl
theorem Placement.init : Placement.Statement .init := placement_internal rfl rfl rfl rfl
theorem Placement.btone2 (t : StepIndex) : Placement.Statement (.btone2 t) := by
  by_cases h : t = 10
  · subst h; exact placement_internal rfl rfl rfl rfl
  · exact placement_none rfl (if_neg h)
theorem Placement.sleep (ms : ℕ) : Placement.Statement (.sleep ms) := by
  by_cases h : ms = params.tToggleMs
  · subst h; exact placement_internal rfl (by simp [slotOf]; exact ⟨rfl, rfl⟩) rfl rfl
  · exact placement_none rfl (if_neg h)
theorem Placement.jmp (t : StepIndex) : Placement.Statement (.jmp t) := by
  by_cases h : t = 10
  · subst h; exact placement_internal rfl rfl rfl rfl
  · exact placement_none rfl (if_neg h)
theorem Placement.exit (c : ℕ) : Placement.Statement (.exit c) := by
  by_cases h : c = 0
  · subst h; exact placement_internal rfl rfl rfl rfl
  · exact placement_none rfl (if_neg h)
theorem Placement.progSf : Placement.Statement .progSf := placement_none rfl rfl
theorem Placement.progFm : Placement.Statement .progFm := placement_none rfl rfl

end Sys2Proof.Laws
end

