-- ==== Sys2Proof/Laws/Pins.lean ====
section
/-! SUPPORT. The pin latches and the hazards over the events of the transport: what a byte, a strobe and a frame leave on the
pins, and that none of them has a hazard (42_transport.md R192 to R199, 70_reset_and_hazards.md R340, R341). -/

namespace Sys2Proof.Machine

/-- No event turns an output back into an input (10_state.md R36). -/
theorem allOut_replay (es : List Event) {ps : Pins} (h : ps.allOut = true) : (ps.replay es).allOut = true := by
  induction es generalizing ps with
  | nil => exact h
  | cons e es ih =>
    rw [replay_cons]
    apply ih
    cases e with
    | dir p => cases p <;> simp_all [Pins.event, Pins.set, Pins.get, Pins.allOut]
    | drive p l => cases p <;> simp_all [Pins.event, Pins.set, Pins.get, Pins.allOut]
    | sleep ms => exact h
    | diag k => exact h
    | trace text => exact h
    | exit code => exact h

/-- The pins after one byte: SCLK low, SDIO the last bit, the rest untouched. -/
theorem replay_byte_pins (b : Byte) (ps : Pins) :
    ps.replay (byteEvents b) = { ps with
      sclk := { ps.sclk with level := .low }, sdio := { ps.sdio with level := .ofBool (b.getLsbD 0) } } := by
  simp [byteEvents, bitsMsbFirst, bitEvents, Pins.event, Pins.set, Pins.get, Level.ofBool]

/-- The pins after a payload: SCLK low if it was, SDIO the last bit sent, the rest untouched. -/
theorem replay_payload_pins (d : List Byte) (b : Byte) (ps : Pins) (h : ps.sclk.level = .low)
    (hb : ps.sdio.level = .ofBool (b.getLsbD 0)) :
    ps.replay (d.flatMap byteEvents) =
      { ps with sdio := { ps.sdio with level := .ofBool (((b :: d).getLast (by simp)).getLsbD 0) } } := by
  induction d generalizing ps b with
  | nil =>
    rw [List.getLast_singleton, ← hb]
    rfl
  | cons a d ih =>
    have hp := replay_byte_pins a ps
    rw [List.flatMap_cons, replay_append, ih a (ps.replay (byteEvents a)) (by rw [hp]) (by rw [hp]), hp, ← h]
    simp

/-- The pins after the strobe: IOUPDATE low (R196). -/
theorem replay_strobe_pins (c : Config) (ps : Pins) :
    ps.replay (strobeEvents c) = { ps with ioupdate := { ps.ioupdate with level := .low } } := by
  unfold strobeEvents pauseEvents
  split <;> split <;> split <;> simp [Pins.event, Pins.set, Pins.get, Level.ofBool]

/-- The pins after a frame (R192, R199): chip-select active, SCLK and IOUPDATE low, SDIO the last bit sent, RESET untouched. -/
theorem replay_frame_pins (c : Config) (i : Byte) (d : List Byte) (ps : Pins) :
    ps.replay (frameEvents c i d) = { ps with
      cs := { ps.cs with level := .ofBool c.csActive }, sclk := { ps.sclk with level := .low },
      sdio := { ps.sdio with level := .ofBool (((i :: d).getLast (by simp)).getLsbD 0) },
      ioupdate := { ps.ioupdate with level := .low } } := by
  rw [frameEvents_eq, replay_cons, replay_append, replay_append, replay_byte_pins, replay_payload_pins d i _ rfl rfl,
    replay_strobe_pins]
  rfl

/-- The lines between two operations: neither the clock nor the strobe is high. -/
def Pins.quiet (ps : Pins) : Prop := ps.sclk.level ≠ .high ∧ ps.ioupdate.level ≠ .high

theorem hazardFree_byte (b : Byte) {ps : Pins} (h : ps.quiet) : hazardFree ps (byteEvents b) = true := by
  obtain ⟨h1, h2⟩ := h
  simp [byteEvents, bitsMsbFirst, bitEvents, hazardFree, eventAllowed, Pins.event, Pins.set, Pins.get, Level.ofBool, h1, h2]

theorem quiet_byte (b : Byte) {ps : Pins} (h : ps.quiet) : (ps.replay (byteEvents b)).quiet := by
  rw [replay_byte_pins]; exact ⟨by simp, h.2⟩

theorem hazardFree_payload (d : List Byte) {ps : Pins} (h : ps.quiet) :
    hazardFree ps (d.flatMap byteEvents) = true ∧ (ps.replay (d.flatMap byteEvents)).quiet := by
  induction d generalizing ps with
  | nil => exact ⟨rfl, h⟩
  | cons b d ih =>
    obtain ⟨h1, h2⟩ := ih (quiet_byte b h)
    rw [List.flatMap_cons, hazardFree_append, replay_append, hazardFree_byte b h]
    exact ⟨h1, h2⟩

theorem hazardFree_strobe (c : Config) (ps : Pins) : hazardFree ps (strobeEvents c) = true := by
  unfold strobeEvents pauseEvents
  split <;> split <;> split <;> rfl

/-- A whole frame has no hazard, and leaves the lines quiet (R340, R341). -/
theorem hazardFree_frame (c : Config) (i : Byte) (d : List Byte) {ps : Pins} (h : ps.quiet) :
    hazardFree ps (frameEvents c i d) = true ∧ (ps.replay (frameEvents c i d)).quiet := by
  have h0 : (ps.event (.drive .cs c.csActive)).quiet := h
  constructor
  · rw [frameEvents_eq, hazardFree, hazardFree_append, hazardFree_append, hazardFree_byte i h0,
      (hazardFree_payload d (quiet_byte i h0)).1, hazardFree_strobe]
    simpa [eventAllowed] using h.2
  · rw [replay_frame_pins]
    exact ⟨by simp, by simp⟩

end Sys2Proof.Machine
end

