-- ==== Sys2Proof/Laws/Ramtab.lean ====
section
/-! SUPPORT. What GEN_RAMTAB does (41_tone_sweep.md R170): one slot, the whole table, and that nothing but RAMBUF, the scratch
registers FTW and FTWBUF, and verbose records is touched. -/

namespace Sys2Proof.Machine

/-- A verbose record drives no pin. -/
theorem event_trace (ps : Pins) (text : String) : ps.event (.trace text) = ps := rfl

/-- All ENC_FTW can change: FTW, its bytes, and verbose records of TRACE. -/
theorem encFtw_frame {f : ℚ} {s t : State} (h : encFtw params f s = .ok t) :
    ∃ new, (∀ e ∈ new, e.isVerbose = true) ∧ (s.debug = some false → new = []) ∧
      t = { s with ftw := some (BitVec.ofInt 32 (wordOf f)), ftwbuf := some (be4 (BitVec.ofInt 32 (wordOf f))),
                   log := new ++ s.log } := by
  obtain ⟨-, -, ⟨-, rfl⟩ | ⟨hd, rfl⟩⟩ := encFtw_cases h
  · exact ⟨[], by simp, fun _ => rfl, rfl⟩
  · refine ⟨[.trace (Config.freeTraceText s.log.length)], by simp [Event.isVerbose], ?_, rfl⟩
    intro h2; rw [hd] at h2; cases h2

/-- The bytes of a tuning word are four. -/
theorem wordBytes_length (w : ℤ) : (wordBytes w).length = 4 := rfl

theorem toneTable_length : params.toneTable.length = 100 := rfl

/-- All one slot of the table can do. -/
theorem ramtabEntry_cases {c : ℚ} {s t : State} {i : ℕ} (h : ramtabEntry params c s i = .ok t) :
    ∃ (o : ℤ) (new : List Event), params.toneTable[i]? = some o ∧
      (∀ e ∈ new, e.isVerbose = true) ∧ (s.debug = some false → new = []) ∧
      t = { s with ftw := some (BitVec.ofInt 32 (wordOf (c + o))),
                   ftwbuf := some (be4 (BitVec.ofInt 32 (wordOf (c + o)))),
                   rambuf := memSetBytes s.rambuf (4 * i) (wordBytes (wordOf (c + o))), log := new ++ s.log } ∧
      i < 100 := by
  have hi : i < 100 ∨ toneRomRead params i = .error .addressOutOfRange := by
    by_cases hi : i < 100
    · exact .inl hi
    · right
      unfold toneRomRead
      rw [List.getElem?_eq_none (by rw [toneTable_length]; omega)]
  unfold ramtabEntry at h
  cases ho : params.toneTable[i]? with
  | none => simp [toneRomRead, ho] at h; cases h
  | some o =>
    have hr : toneRomRead params i = .ok o := by simp [toneRomRead, ho]
    have hlt : i < 100 := hi.resolve_right (by rw [hr]; exact nofun)
    rw [hr] at h
    change (encFtw params (c + o) s >>= _) = _ at h
    cases he : encFtw params (c + o) s with
    | error e => rw [he] at h; cases h
    | ok u =>
      rw [he] at h
      obtain ⟨new, hv, hd, rfl⟩ := encFtw_frame he
      refine ⟨o, new, rfl, hv, hd, ?_, hlt⟩
      change State.ramWrite _ _ _ = _ at h
      have := (ramWrite_cases h).2
      rw [be4_toList] at this
      exact this

/-- One slot completes when its sum is in ENC_FTW's domain. -/
theorem ramtabEntry_ok {c : ℚ} {s : State} {i : ℕ} {o : ℤ} (hd : s.debug ≠ none)
    (ho : params.toneTable[i]? = some o) (h0 : 0 ≤ c + o) (h1 : wordOf (c + o) < 2 ^ 32) :
    ∃ t, ramtabEntry params c s i = .ok t := by
  have hi : i < 100 := by
    by_contra hc
    rw [List.getElem?_eq_none (by rw [toneTable_length]; omega)] at ho
    cases ho
  have hr : toneRomRead params i = .ok o := by simp [toneRomRead, ho]
  obtain ⟨u, hu⟩ := encFtw_ok hd h0 h1
  obtain ⟨new, -, -, rfl⟩ := encFtw_frame hu
  unfold ramtabEntry
  rw [hr]
  change ∃ t, (encFtw params (c + o) s >>= _) = _
  rw [hu]
  change ∃ t, State.ramWrite _ _ _ = _
  unfold State.ramWrite
  rw [if_neg (by simp [rambufSize]; omega)]
  exact ⟨_, rfl⟩

/-- The slots do not write DEBUG. -/
theorem ramtabEntry_debug {c : ℚ} {s t : State} {i : ℕ} (h : ramtabEntry params c s i = .ok t) : t.debug = s.debug := by
  obtain ⟨o, new, -, -, -, rfl, -⟩ := ramtabEntry_cases h
  rfl

/-- What the first `k` slots leave in RAMBUF. -/
@[irreducible] def tableCells (c : ℚ) (m : List Host.Cell) (k : ℕ) : List Host.Cell :=
  (List.range k).foldl (fun m i => memSetBytes m (4 * i) (wordBytes (wordOf (c + (params.toneTable[i]?.getD 0 : ℤ))))) m

theorem tableCells_succ (c : ℚ) (m : List Host.Cell) (k : ℕ) :
    tableCells c m (k + 1) = memSetBytes (tableCells c m k) (4 * k)
      (wordBytes (wordOf (c + (params.toneTable[k]?.getD 0 : ℤ)))) := by
  simp [tableCells, List.range_succ]

/-- A byte of RAMBUF after `k` slots. -/
theorem memGet_tableCells (c : ℚ) (m : List Host.Cell) (k a : ℕ) :
    memGet (tableCells c m k) a =
      if a < 4 * k then (wordBytes (wordOf (c + (params.toneTable[a / 4]?.getD 0 : ℤ))))[a % 4]? else memGet m a := by
  induction k with
  | zero => simp [tableCells]
  | succ k ih =>
    rw [tableCells_succ, memGet_memSetBytes, ih, wordBytes_length]
    by_cases h1 : a < 4 * k
    · rw [if_neg (by omega), if_pos h1, if_pos (by omega)]
    · by_cases h2 : a < 4 * (k + 1)
      · have hq : a / 4 = k := by omega
        rw [if_pos (by omega), if_pos h2, hq]
        congr 1
        omega
      · rw [if_neg (by omega), if_neg h1, if_neg h2]

theorem tableCells_wf (c : ℚ) {m : List Host.Cell} (h : Memory.wf m = true) {k : ℕ} (hk : k ≤ 100) :
    Memory.wf (tableCells c m k) = true := by
  induction k with
  | zero => simpa [tableCells] using h
  | succ k ih =>
    rw [tableCells_succ]
    exact memSetBytes_wf (ih (by omega)) (by rw [wordBytes_length]; simp [rambufSize]; omega)

/-- All `GEN_RAMTAB` can do: RAMBUF holds the table over the carrier, FTW and FTWBUF match, verbose records may be new. -/
theorem genRamtab_cases {c : ℚ} {s t : State} (h : genRamtab params c s = .ok t) :
    ∃ (w : BitVec 32) (new : List Event), (∀ e ∈ new, e.isVerbose = true) ∧ (s.debug = some false → new = []) ∧
      t = { s with ftw := some w, ftwbuf := some (be4 w), rambuf := tableCells c s.rambuf 100, log := new ++ s.log } := by
  have key : ∀ k u, (List.range (k + 1)).foldlM (ramtabEntry params c) s = .ok u →
      ∃ (w : BitVec 32) (new : List Event), (∀ e ∈ new, e.isVerbose = true) ∧ (s.debug = some false → new = []) ∧
        u = { s with ftw := some w, ftwbuf := some (be4 w), rambuf := tableCells c s.rambuf (k + 1),
                     log := new ++ s.log } := by
    intro k
    induction k with
    | zero =>
      intro u hu
      rw [show List.range (0 + 1) = [0] from rfl, List.foldlM_cons] at hu
      simp only [List.foldlM_nil, bind_pure] at hu
      obtain ⟨o, new, ho, hv, hd, rfl, -⟩ := ramtabEntry_cases hu
      exact ⟨BitVec.ofInt 32 (wordOf (c + o)), new, hv, hd, by simp [tableCells, ho]⟩
    | succ k ih =>
      intro u hu
      rw [List.range_succ, List.foldlM_append] at hu
      cases hp : (List.range (k + 1)).foldlM (ramtabEntry params c) s with
      | error e => rw [hp] at hu; cases hu
      | ok v =>
        rw [hp] at hu
        simp only [List.foldlM_cons, List.foldlM_nil, bind_pure] at hu
        change ramtabEntry params c v (k + 1) = _ at hu
        obtain ⟨w, n1, hv1, hd1, rfl⟩ := ih v hp
        obtain ⟨o, n2, ho, hv2, hd2, rfl, -⟩ := ramtabEntry_cases hu
        refine ⟨BitVec.ofInt 32 (wordOf (c + o)), n2 ++ n1, ?_, ?_, ?_⟩
        · intro e he
          rcases List.mem_append.mp he with he | he
          · exact hv2 e he
          · exact hv1 e he
        · intro hd
          simp [hd1 hd, hd2 hd]
        · simp [tableCells_succ c s.rambuf (k + 1), ho]
  exact key 99 t h

/-- `GEN_RAMTAB` completes when every sum is in ENC_FTW's domain. -/
theorem genRamtab_ok {c : ℚ} {s : State} (hd : s.debug ≠ none)
    (hc : ∀ o ∈ params.toneTable, 0 ≤ c + (o : ℚ) ∧ wordOf (c + o) < 2 ^ 32) :
    ∃ t, genRamtab params c s = .ok t := by
  have key : ∀ k, k ≤ 100 → ∃ u, (List.range k).foldlM (ramtabEntry params c) s = .ok u ∧ u.debug = s.debug := by
    intro k hk
    induction k with
    | zero => exact ⟨s, rfl, rfl⟩
    | succ k ih =>
      obtain ⟨u, hu, hud⟩ := ih (by omega)
      have hlt : k < params.toneTable.length := by rw [toneTable_length]; omega
      obtain ⟨h0, h1⟩ := hc _ (List.getElem_mem hlt)
      obtain ⟨v, hv⟩ := ramtabEntry_ok (hud ▸ hd) (List.getElem?_eq_getElem hlt) h0 h1
      rw [List.range_succ, List.foldlM_append, hu]
      simp only [List.foldlM_cons, List.foldlM_nil, bind_pure]
      exact ⟨v, hv, (ramtabEntry_debug hv).trans hud⟩
  obtain ⟨u, hu, -⟩ := key 100 le_rfl
  exact ⟨u, hu⟩

/-- Every offset of the default table lies within the peak (R167). -/
theorem toneTable_within : ∀ o ∈ params.toneTable, -2500 ≤ o ∧ o ≤ 2500 := by decide +kernel

end Sys2Proof.Machine
end

