-- ==== Sys2Proof/Laws/Rows.lean ====
section
/-! SUPPORT. Inversion of every meaning: if it answers a next state, which state, and under which conditions. One lemma per
row operation, to cite instead of unfolding it. -/

namespace Sys2Proof.Machine

theorem finish_next {s t : State} {r : Except Reason State} (h : finish s r = .next t) : r = .ok t := by
  cases r with
  | ok u => cases h; rfl
  | error e => cases h

theorem finish_ok (s t : State) : finish s (.ok t) = .next t := rfl

/-- A read that answers found the value. -/
theorem readReg_ok {α : Type} {n : RegName} {v : Option α} {x : α} (h : readReg n v = .ok x) : v = some x := by
  cases v <;> cases h
  rfl

theorem ok_bind {α β : Type} (a : α) (f : α → Except Reason β) : (Except.ok a >>= f) = f a := rfl

theorem bind_ok {α β : Type} {x : Except Reason α} {f : α → Except Reason β} {y : β} (h : x >>= f = .ok y) :
    ∃ a, x = .ok a ∧ f a = .ok y := by
  cases x with
  | ok a => exact ⟨a, rfl, h⟩
  | error e => cases h

/-! ## Register writes (43_register_frames.md) -/

/-- A register-write row sends its frame and goes on at the next row (R220, 10_state.md R31). -/
theorem sendFrame_of_allOut (c : Config) (i : Byte) (d : List Byte) {s : State} (h : s.pins.allOut = true) :
    sendFrame c i d s = .ok (afterXfer c i d s).advance := by
  unfold sendFrame; rw [xfer_of_allOut c i d s h]; rfl

theorem sendFrame_cases {c : Config} {i : Byte} {d : List Byte} {s t : State} (h : sendFrame c i d s = .ok t) :
    s.pins.allOut = true ∧ t = (afterXfer c i d s).advance := by
  cases ha : s.pins.allOut
  · unfold sendFrame at h; rw [xfer_of_not_allOut c i d s ha] at h; cases h
  · rw [sendFrame_of_allOut c i d ha] at h; exact ⟨rfl, by cases h; rfl⟩

theorem execWrCfr1_ok {s : State} {m : Mode} (hm : s.mode = some m) (h : s.pins.allOut = true) :
    execWrCfr1 s = .next (afterXfer params params.addrCfr1 (cfr1Payload params m) s).advance := by
  unfold execWrCfr1 wrCfr1
  simp only [State.readMode, readReg, hm, ok_bind, sendFrame_of_allOut _ _ _ h, finish]

theorem execWrArr_ok {s : State} (h : s.pins.allOut = true) :
    execWrArr s = .next (afterXfer params params.addrArr params.arrPayload s).advance := by
  unfold execWrArr wrArr
  rw [sendFrame_of_allOut _ _ _ h, finish]

theorem execWrCfr2_ok {s : State} (h : s.pins.allOut = true) :
    execWrCfr2 s = .next (afterXfer params params.addrCfr2 params.cfr2Payload s).advance := by
  unfold execWrCfr2 wrCfr2
  rw [sendFrame_of_allOut _ _ _ h, finish]

theorem execWrAsf_ok {s : State} {b : Vector Byte 2} (hb : s.asfbuf = some b) (h : s.pins.allOut = true) :
    execWrAsf s = .next (afterXfer params params.addrAsf b.toList s).advance := by
  unfold execWrAsf wrAsf
  simp only [State.readAsfbuf, readReg, hb, ok_bind, sendFrame_of_allOut _ _ _ h, finish]

theorem execWrFtw0_ok {s u : State} {f : ℚ} (hf : s.freq = some f) (hu : encFtw params f s = .ok u)
    (h : s.pins.allOut = true) :
    execWrFtw0 s = .next (afterXfer params params.addrFtw0 (wordBytes (wordOf f)) u).advance := by
  obtain ⟨new, -, -, he⟩ := encFtw_frame hu
  have hp : u.pins.allOut = true := by rw [he]; exact h
  have hb : u.ftwbuf = some (be4 (BitVec.ofInt 32 (wordOf f))) := by rw [he]
  unfold execWrFtw0 wrFtw0
  simp only [State.readFreq, State.readFtwbuf, readReg, hf, ok_bind, hu, hb, sendFrame_of_allOut _ _ _ hp, finish,
    be4_toList]

theorem execWrRam_ok {s : State} {bs : List Byte} (hb : s.ramRead 0 400 = .ok bs) (h : s.pins.allOut = true) :
    execWrRam s = .next (afterXfer params params.addrRam bs s).advance := by
  have hb : s.ramRead 0 params.lenRam = .ok bs := hb
  unfold execWrRam wrRam
  simp only [hb, ok_bind, sendFrame_of_allOut _ _ _ h, finish]

theorem execWrRscw_ok {s : State} {r : ToneReg} {hz : ℚ} (hh : s.tone r = some hz) (ha : toneAdmitted hz)
    (h : s.pins.allOut = true) :
    execWrRscw r s = .next (afterXfer params params.addrRscw (rscwPayload hz) (s.withRate hz)).advance := by
  have hp : (s.withRate hz).pins.allOut = true := h
  have hb : (s.withRate hz).rscwbuf = some (rscwBytes params (BitVec.ofInt 16 (rampRate params hz))) := rfl
  unfold execWrRscw wrRscw
  simp only [State.readTone, State.readRscwbuf, readReg, hh, ok_bind, genRscw_admitted s ha, hb,
    sendFrame_of_allOut _ _ _ hp, finish, rscwBytes_toList ha.1]

theorem execWrCfr1_next {s t : State} (h : execWrCfr1 s = .next t) :
    ∃ m, s.mode = some m ∧ s.pins.allOut = true ∧
      t = (afterXfer params params.addrCfr1 (cfr1Payload params m) s).advance := by
  obtain ⟨m, hm, h⟩ := bind_ok (finish_next h)
  obtain ⟨ha, ht⟩ := sendFrame_cases h
  exact ⟨m, readReg_ok hm, ha, ht⟩

theorem execWrArr_next {s t : State} (h : execWrArr s = .next t) :
    s.pins.allOut = true ∧ t = (afterXfer params params.addrArr params.arrPayload s).advance :=
  sendFrame_cases (finish_next h)

theorem execWrCfr2_next {s t : State} (h : execWrCfr2 s = .next t) :
    s.pins.allOut = true ∧ t = (afterXfer params params.addrCfr2 params.cfr2Payload s).advance :=
  sendFrame_cases (finish_next h)

theorem execWrAsf_next {s t : State} (h : execWrAsf s = .next t) :
    ∃ b, s.asfbuf = some b ∧ s.pins.allOut = true ∧ t = (afterXfer params params.addrAsf b.toList s).advance := by
  obtain ⟨b, hb, h⟩ := bind_ok (finish_next h)
  obtain ⟨ha, ht⟩ := sendFrame_cases h
  exact ⟨b, readReg_ok hb, ha, ht⟩

theorem execWrFtw0_next {s t : State} (h : execWrFtw0 s = .next t) :
    ∃ f u, s.freq = some f ∧ encFtw params f s = .ok u ∧ s.pins.allOut = true ∧
      t = (afterXfer params params.addrFtw0 (wordBytes (wordOf f)) u).advance := by
  obtain ⟨f, hf, h⟩ := bind_ok (finish_next h)
  obtain ⟨u, hu, h⟩ := bind_ok h
  obtain ⟨b, hb, h⟩ := bind_ok h
  obtain ⟨ha, ht⟩ := sendFrame_cases h
  obtain ⟨new, -, -, rfl⟩ := encFtw_frame hu
  have hb := readReg_ok hb
  simp only [Option.some.injEq] at hb
  subst hb
  rw [be4_toList] at ht
  exact ⟨f, _, readReg_ok hf, hu, ha, ht⟩

theorem execWrRam_next {s t : State} (h : execWrRam s = .next t) :
    ∃ bs, s.ramRead 0 400 = .ok bs ∧ s.pins.allOut = true ∧ t = (afterXfer params params.addrRam bs s).advance := by
  obtain ⟨bs, hb, h⟩ := bind_ok (finish_next h)
  obtain ⟨ha, ht⟩ := sendFrame_cases h
  exact ⟨bs, hb, ha, ht⟩

theorem execWrRscw_next {r : ToneReg} {s t : State} (h : execWrRscw r s = .next t) :
    ∃ hz, s.tone r = some hz ∧ toneAdmitted hz ∧ s.pins.allOut = true ∧
      t = (afterXfer params params.addrRscw (rscwPayload hz) (s.withRate hz)).advance := by
  obtain ⟨hz, hf, h⟩ := bind_ok (finish_next h)
  obtain ⟨u, hu, h⟩ := bind_ok h
  obtain ⟨b, hb, h⟩ := bind_ok h
  obtain ⟨ha, ht⟩ := sendFrame_cases h
  obtain ⟨had, rfl⟩ := genRscw_cases hu
  have hb := readReg_ok hb
  simp only [State.withRate, Option.some.injEq] at hb
  subst hb
  rw [rscwBytes_toList had.1] at ht
  exact ⟨hz, readReg_ok hf, had, ha, ht⟩

/-! ## The other families -/

theorem execEncFtw_next {f : ℚ} {s t : State} (h : execEncFtw f s = .next t) : encFtw params f s = .ok t := finish_next h

theorem execChkAsf_next {s t : State} (h : execChkAsf s = .next t) :
    ∃ n, s.asfRaw = some n ∧
      ((n ≤ 16383 ∧ t = storeAsf n s) ∨ (16383 < n ∧ t = raiseFatal .ampRange s)) := chkAsf_cases (finish_next h)

theorem execGenRscw_next {hz : ℚ} {s t : State} (h : execGenRscw hz s = .next t) : toneAdmitted hz ∧ t = s.withRate hz :=
  genRscw_cases (finish_next h)

theorem execGenRamtab_next {k : Carrier} {s t : State} (h : execGenRamtab k s = .next t) :
    ∃ c u, s.readCarrier k = .ok c ∧ genRamtab params c s = .ok u ∧ t = { u with seqPc := 7 } := by
  obtain ⟨c, hc, h⟩ := bind_ok (finish_next h)
  obtain ⟨u, hu, h⟩ := bind_ok h
  exact ⟨c, u, hc, hu, by cases h; rfl⟩

theorem execXfer_next {i : Byte} {d : List Byte} {s t : State} (h : execXfer i d s = .next t) :
    s.pins.allOut = true ∧ t = afterXfer params i d s := xfer_cases (finish_next h)

/-! ## The sequencer's own operations (44_sequencer.md) -/

/-- Every conversion writes ASF_RAW and nothing else (R252, 40_codecs.md R130). -/
theorem convertLevel_eq (l : LevelRequest) (s : State) :
    ∃ n, convertLevel params l s = { s with asfRaw := some n } := by
  cases l with
  | rel d => exact ⟨_, rfl⟩
  | dbm p => exact ⟨_, rfl⟩
  | int n => exact ⟨n, rfl⟩

/-- The rounded real formula is what the exact evaluation finds. -/
theorem isDecibels_iff {d : ℚ} {n : ℕ} : isDecibels d n ↔ n = decibelScale .rne0 16383 d := by
  have h := decibelScale_rne0 16383 d
  unfold isDecibels
  push_cast at h
  rw [← h, Nat.cast_inj]

/-- The unclipped amplitude of a level request. -/
def levelRaw : LevelRequest → ℕ
  | .rel d => decibelScale params.rndAsf params.asfMax d
  | .dbm p => decibelScale params.rndAsf params.asfMax (p - params.pMaxDbm)
  | .int n => n

theorem convertLevel_raw (l : LevelRequest) (s : State) :
    convertLevel params l s = { s with asfRaw := some (levelRaw l) } := by
  cases l <;> rfl

/-- The amplitude a level request stands for is the one the conversions compute. -/
theorem levelGives_iff {l : LevelRequest} {raw : ℕ} : levelGives l raw ↔ raw = levelRaw l := by
  cases l with
  | rel d => exact isDecibels_iff
  | dbm p => exact isDecibels_iff
  | int n => exact Iff.rfl

theorem freqOutOfRange_params (f : ℚ) : freqOutOfRange params f = (decide (f < 0) || decide (200000000 < f)) := rfl

theorem freqHigh_params (f : ℚ) : freqHigh params f = (decide (160000000 < f) && decide (f ≤ 200000000)) := rfl

/-- The causes that hold (R252). -/
theorem fatalCauses_nil {f : ℚ} {n : ℕ} :
    fatalCauses params f n = [] ↔ (0 ≤ f ∧ f ≤ 200000000) ∧ n ≤ 16383 := by
  unfold fatalCauses
  rw [freqOutOfRange_params, ampOutOfRange_params, List.append_eq_nil_iff]
  refine and_congr ?_ ?_ <;> split <;> rename_i h <;> simp at h <;> simp <;> grind

theorem fatalCauses_mem {f : ℚ} {n : ℕ} {c : FatalCause} (h : c ∈ fatalCauses params f n) :
    (c = .freqRange → f < 0 ∨ 200000000 < f) ∧ (c = .ampRange → 16383 < n) := by
  unfold fatalCauses at h
  rw [freqOutOfRange_params, ampOutOfRange_params] at h
  rcases List.mem_append.mp h with h | h <;> split at h <;> simp_all

/-- `raiseSome` raises one of the causes that hold. -/
theorem raiseSome_cases (first : FatalCause) (others : List FatalCause) (s : State) :
    ∃ c ∈ first :: others, raiseSome first others s = raiseFatal c s := by
  cases others with
  | nil => exact ⟨first, by simp, rfl⟩
  | cons second rest =>
    cases hc : Config.freeFirstCause s.freeCount
    · exact ⟨second, by simp, by simp [raiseSome, hc]⟩
    · exact ⟨first, by simp, by simp [raiseSome, hc]⟩

/-- The unspecified warning record of a fatal run (60_exceptions.md R300). -/
theorem maybeWarnDiag_cases (f : ℚ) (s : State) :
    ∃ pre, (pre = [] ∨ (pre = [.diag .freqHigh] ∧ 160000000 < f ∧ f ≤ 200000000)) ∧
      maybeWarnDiag params f s = { s with log := pre ++ s.log } := by
  unfold maybeWarnDiag
  split
  · rename_i h
    rw [freqHigh_params] at h
    simp only [Bool.and_eq_true, decide_eq_true_eq] at h
    exact ⟨_, .inr ⟨rfl, h.1⟩, rfl⟩
  · exact ⟨[], .inl rfl, rfl⟩

/-- The state of a passed VALIDATE (R252): the amplitude stored, the warning above FREQ_WARN, row 1. -/
def validated (f : ℚ) (raw : ℕ) (s : State) : State :=
  { s with
    asfRaw := some raw, asf := some (BitVec.ofNat 14 raw), asfbuf := some #v[BitVec.ofNat 8 (raw / 256), BitVec.ofNat 8 raw]
    seqPc := 1, warnHi := if 160000000 < f then true else s.warnHi
    log := if 160000000 < f then .diag .freqHigh :: s.log else s.log }

theorem storeAsf_eq {raw : ℕ} (h : raw ≤ 16383) (s : State) :
    storeAsf raw s = { s with
      asf := some (BitVec.ofNat 14 raw), asfbuf := some #v[BitVec.ofNat 8 (raw / 256), BitVec.ofNat 8 raw] } := by
  rw [← be2_asf raw h]; rfl

/-- VALIDATE in full: refused by name, passed, or fatal (R252). -/
theorem validate_eq {s : State} {l : LevelRequest} {f : ℚ} (hl : s.level = some l) (hf : s.freq = some f) :
    (0 ≤ f ∧ f ≤ 200000000 ∧ levelRaw l ≤ 16383 → validate params s = .ok (validated f (levelRaw l) s)) ∧
    (f < 0 ∨ 200000000 < f ∨ 16383 < levelRaw l → ∃ c pre,
      ((c = .freqRange → f < 0 ∨ 200000000 < f) ∧ (c = .ampRange → 16383 < levelRaw l)) ∧
      (pre = [] ∨ (pre = [.diag .freqHigh] ∧ 160000000 < f ∧ f ≤ 200000000)) ∧
      validate params s = .ok (raiseFatal c { s with asfRaw := some (levelRaw l), log := pre ++ s.log })) := by
  have hread : s.readLevel = .ok l := by simp [State.readLevel, readReg, hl]
  have hstart : validate params s =
      (match fatalCauses params f (levelRaw l) with
        | first :: others =>
          pure (raiseSome first others (maybeWarnDiag params f { s with asfRaw := some (levelRaw l) }))
        | [] => do
          let u ← chkAsf params
            (if params.freqWarn < f then emitWarning { s with asfRaw := some (levelRaw l) }
              else { s with asfRaw := some (levelRaw l) })
          pure { u with seqPc := 1 }) := by
    have hfr : State.readFreq { s with asfRaw := some (levelRaw l) } = .ok f := by simp [State.readFreq, readReg, hf]
    have hraw : State.readAsfRaw { s with asfRaw := some (levelRaw l) } = .ok (levelRaw l) := rfl
    unfold validate
    cases h : fatalCauses params f (levelRaw l) <;> simp only [hread, ok_bind, convertLevel_raw, hfr, hraw, h]
  constructor
  · rintro ⟨h0, h1, h2⟩
    rw [hstart, fatalCauses_nil.mpr ⟨⟨h0, h1⟩, h2⟩]
    dsimp only
    have hn : ¬ 16383 < levelRaw l := by omega
    have hw : params.freqWarn = 160000000 := rfl
    have key : ∀ u : State, u.asfRaw = some (levelRaw l) → chkAsf params u = .ok (storeAsf (levelRaw l) u) := by
      intro u hu
      simp [chkAsf, State.readAsfRaw, readReg, hu, ampOutOfRange_params, hn]
    rw [hw]
    by_cases hf : 160000000 < f
    · rw [if_pos hf, key _ rfl, storeAsf_eq h2]
      simp [validated, hf, ok_bind, emitWarning, State.perform, Pins.event, pure, Except.pure]
    · rw [if_neg hf, key _ rfl, storeAsf_eq h2]
      simp [validated, hf, ok_bind, pure, Except.pure]
  · intro h
    rw [hstart]
    cases hc : fatalCauses params f (levelRaw l) with
    | nil => have := fatalCauses_nil.mp hc; grind
    | cons first others =>
      obtain ⟨c, hmem, hr⟩ := raiseSome_cases first others
        (maybeWarnDiag params f { s with asfRaw := some (levelRaw l) })
      obtain ⟨pre, hp, hm⟩ := maybeWarnDiag_cases f { s with asfRaw := some (levelRaw l) }
      refine ⟨c, pre, fatalCauses_mem (hc ▸ hmem), hp, ?_⟩
      change Except.ok (raiseSome first others _) = _
      rw [hr, hm]

/-- All VALIDATE can do where it answers. -/
theorem execValidate_next {s t : State} (h : execValidate s = .next t) :
    ∃ l f, s.level = some l ∧ s.freq = some f ∧
      ((0 ≤ f ∧ f ≤ 200000000 ∧ levelRaw l ≤ 16383 ∧ t = validated f (levelRaw l) s) ∨
       ∃ c pre, ((c = .freqRange → f < 0 ∨ 200000000 < f) ∧ (c = .ampRange → 16383 < levelRaw l)) ∧
        (pre = [] ∨ (pre = [.diag .freqHigh] ∧ 160000000 < f ∧ f ≤ 200000000)) ∧
        t = raiseFatal c { s with asfRaw := some (levelRaw l), log := pre ++ s.log }) := by
  have h := finish_next h
  obtain ⟨l, hl, h'⟩ := bind_ok h
  obtain ⟨f, hf, -⟩ := bind_ok h'
  have hl := readReg_ok hl
  have hf : s.freq = some f := by
    rw [convertLevel_raw] at hf
    exact readReg_ok hf
  refine ⟨l, f, hl, hf, ?_⟩
  obtain ⟨hp, hq⟩ := validate_eq hl hf
  by_cases hr : f < 0 ∨ 200000000 < f ∨ 16383 < levelRaw l
  · obtain ⟨c, pre, hc, hpre, he⟩ := hq hr
    rw [he] at h
    exact .inr ⟨c, pre, hc, hpre, by cases h; rfl⟩
  · simp only [not_or, not_lt] at hr
    rw [hp hr] at h
    exact .inl ⟨hr.1, hr.2.1, hr.2.2, by cases h; rfl⟩

/-- The events of INIT (R254, R255). -/
def initEvents : List Event :=
  [.dir .reset, .dir .cs, .dir .sclk, .dir .sdio, .dir .ioupdate, .drive .reset params.resetActive,
   .drive .cs (!params.csActive), .drive .ioupdate false, .drive .sclk false] ++ pauseEvents params.tResetMs
  ++ [.drive .reset (!params.resetActive)]

theorem initPins_eq (s : State) :
    initPins params s = { s with
      pins := s.pins.replay initEvents, log := initEvents.reverse ++ s.log, seqPc := 2 } := by
  unfold initPins initEvents State.pause pauseEvents
  split <;> simp [State.setOut, State.drive, State.perform, Pins.event]

/-- All BTONE2 can do where it answers. -/
theorem execBtone2_next {k : StepIndex} {s t : State} (h : execBtone2 k s = .next t) :
    ∃ hz, s.tone2 = some hz ∧ ((0 < hz ∧ t = { s with seqPc := k }) ∨ (hz ≤ 0 ∧ t = exitRun 0 s)) := by
  obtain ⟨hz, hh, h⟩ := bind_ok (finish_next h)
  refine ⟨hz, readReg_ok hh, ?_⟩
  by_cases hp : 0 < hz
  · simp only [hp, if_true] at h
    cases h; exact .inl ⟨hp, rfl⟩
  · simp only [hp, if_false] at h
    cases h; exact .inr ⟨not_lt.mp hp, rfl⟩

/-! ## The rows of the programs and a step -/

/-- The rows of PROG_SF (10_state.md R30). -/
theorem program_sf_cases {pc : StepIndex} {i : Instr} (h : program params .singleFrequency pc = some i) :
    (pc = 0 ∧ i = .validate) ∨ (pc = 1 ∧ i = .init) ∨ (pc = 2 ∧ i = .wrCfr1) ∨ (pc = 3 ∧ i = .wrArr) ∨ (pc = 4 ∧ i =
    .wrCfr2) ∨ (pc = 5 ∧ i = .wrAsf) ∨ (pc = 6 ∧ i = .wrFtw0) ∨ (pc = 7 ∧ i = .exit 0) := by
  unfold program at h
  split at h <;> simp_all [← BitVec.toNat_inj]

/-- The rows of PROG_FM (10_state.md R30). -/
theorem program_fm_cases {pc : StepIndex} {i : Instr} (h : program params .frequencyModulatedTone pc = some i) :
    (pc = 0 ∧ i = .validate) ∨ (pc = 1 ∧ i = .init) ∨ (pc = 2 ∧ i = .wrCfr1) ∨ (pc = 3 ∧ i = .wrArr) ∨ (pc = 4 ∧ i =
    .wrCfr2) ∨ (pc = 5 ∧ i = .wrAsf) ∨ (pc = 6 ∧ i = .genRamtab .freq) ∨ (pc = 7 ∧ i = .wrRam) ∨ (pc = 8 ∧ i =
    .wrRscw .tone1) ∨ (pc = 9 ∧ i = .btone2 10) ∨ (pc = 10 ∧ i = .sleep params.tToggleMs) ∨ (pc = 11 ∧ i = .wrRscw
    .tone2) ∨ (pc = 12 ∧ i = .sleep params.tToggleMs) ∨ (pc = 13 ∧ i = .wrRscw .tone1) ∨ (pc = 14 ∧ i = .jmp 10) := by
  unfold program at h
  split at h <;> simp_all [← BitVec.toNat_inj]

/-- All a step can do where it answers: the fetched row runs (44_sequencer.md R251). -/
theorem step_next {s t : State} (h : step s = .next t) :
    ∃ m i, s.halted = false ∧ s.mode = some m ∧ program params m s.seqPc = some i ∧ exec i s = .next t := by
  unfold step at h
  split at h
  · cases h
  · rename_i hh
    split at h
    · cases h
    · rename_i m hm
      split at h
      · cases h
      · rename_i i hi
        exact ⟨m, i, by simpa using hh, hm, hi, h⟩

end Sys2Proof.Machine
end

