-- ==== Sys2Proof/Laws/ToneTable.lean ====
section
/-! SUPPORT. The sine at the hundred steps of a cycle, as rational numbers close enough to compare the tone table with
(41_tone_sweep.md R166, R167): powers of one rotation by a hundredth of a turn. -/

namespace Sys2Proof.Machine

open Complex

/-- Powers of two close numbers of norm at most one are close. -/
theorem pow_close {z w : ℂ} {e : ℝ} (hz : ‖z‖ ≤ 1) (hw : ‖w‖ ≤ 1) (h : ‖z - w‖ ≤ e) (n : ℕ) :
    ‖z ^ n - w ^ n‖ ≤ n * e := by
  induction n with
  | zero => simp
  | succ n ih =>
    have e1 : z ^ (n + 1) - w ^ (n + 1) = z ^ n * (z - w) + (z ^ n - w ^ n) * w := by ring
    have h0 : 0 ≤ ‖z ^ n - w ^ n‖ := norm_nonneg _
    have h1 : ‖z ^ n‖ ≤ 1 := by rw [norm_pow]; exact pow_le_one₀ (norm_nonneg _) hz
    calc ‖z ^ (n + 1) - w ^ (n + 1)‖ ≤ ‖z ^ n‖ * ‖z - w‖ + ‖z ^ n - w ^ n‖ * ‖w‖ := by
          rw [e1, ← norm_mul, ← norm_mul]; exact norm_add_le _ _
      _ ≤ 1 * e + n * e * 1 := by
          gcongr
          exact mul_nonneg (Nat.cast_nonneg n) ((norm_nonneg _).trans h)
      _ = (n + 1 : ℕ) * e := by push_cast; ring


/-- Cosine and sine of `n` steps of a hundredth of a turn, times `10^(10 n)`, from a step rounded to ten digits. -/
def rotation : ℕ → ℤ × ℤ
  | 0 => (1, 0)
  | n + 1 => ((rotation n).1 * 9980267284 - (rotation n).2 * 627905195, (rotation n).2 * 9980267284 + (rotation n).1 * 627905195)

/-- `rotation` is the power of the rounded step. -/
theorem rotation_eq (n : ℕ) :
    (⟨9980267284 / 10 ^ 10, 627905195 / 10 ^ 10⟩ : ℂ) ^ n =
      ⟨(rotation n).1 / 10 ^ (10 * n), (rotation n).2 / 10 ^ (10 * n)⟩ := by
  induction n with
  | zero => apply Complex.ext <;> simp [rotation]
  | succ n ih =>
    rw [pow_succ, ih, rotation]
    apply Complex.ext <;> simp only [Complex.mul_re, Complex.mul_im] <;> push_cast <;>
      rw [mul_add, pow_add] <;> field_simp <;> ring

/-- The rounded step is within `10^-9` of the rotation by a hundredth of a turn. -/
theorem step_close :
    ‖cexp (I * ((2 * Real.pi / 100 : ℝ) : ℂ)) - ⟨9980267284 / 10 ^ 10, 627905195 / 10 ^ 10⟩‖ ≤ 1 / 10 ^ 9 := by
  set r : ℂ := ⟨9980267284 / 10 ^ 10, 627905195 / 10 ^ 10⟩ with hr
  set x : ℝ := 62831853071 / 10 ^ 12 with hx
  have h1 : ‖cexp (I * ((2 * Real.pi / 100 : ℝ) : ℂ)) - cexp (I * (x : ℂ))‖ ≤ 1 / 10 ^ 11 := by
    have e : cexp (I * ((2 * Real.pi / 100 : ℝ) : ℂ)) - cexp (I * (x : ℂ)) =
        cexp (I * (x : ℂ)) * (cexp (I * ((2 * Real.pi / 100 - x : ℝ) : ℂ)) - 1) := by
      rw [mul_sub, ← Complex.exp_add]; push_cast; ring_nf
    rw [e, norm_mul, norm_exp_I_mul_ofReal, one_mul]
    refine Real.norm_exp_I_mul_ofReal_sub_one_le.trans ?_
    rw [Real.norm_eq_abs, abs_le]
    have := Real.pi_gt_d20; have := Real.pi_lt_d20
    constructor <;> norm_num [hx] <;> linarith
  have h2 : ‖cexp (I * (x : ℂ)) - ∑ m ∈ Finset.range 8, (I * (x : ℂ)) ^ m / (m.factorial : ℂ)‖ ≤ 1 / 10 ^ 11 := by
    have hn : ‖I * (x : ℂ)‖ = x := by simp [hx]
    refine (Complex.exp_bound (by rw [hn, hx]; norm_num) (by norm_num)).trans ?_
    rw [hn, hx]; norm_num [Nat.factorial]
  have h3 : ‖(∑ m ∈ Finset.range 8, (I * (x : ℂ)) ^ m / (m.factorial : ℂ)) - r‖ ≤ 9 / 10 ^ 10 := by
    have e : (∑ m ∈ Finset.range 8, (I * (x : ℂ)) ^ m / (m.factorial : ℂ)) =
        ((1 - x ^ 2 / 2 + x ^ 4 / 24 - x ^ 6 / 720 : ℝ) : ℂ) +
          ((x - x ^ 3 / 6 + x ^ 5 / 120 - x ^ 7 / 5040 : ℝ) : ℂ) * I := by
      simp [Finset.sum_range_succ, Nat.factorial, mul_pow, pow_succ]
      ring_nf
    rw [e, hr]
    refine (Complex.norm_le_abs_re_add_abs_im _).trans ?_
    simp only [Complex.sub_re, Complex.add_re, Complex.ofReal_re, Complex.mul_re, Complex.I_re, Complex.ofReal_im, Complex.I_im,
      Complex.sub_im, Complex.add_im, Complex.mul_im]
    rw [hx]; norm_num [abs_le]
  calc _ = ‖(cexp (I * ((2 * Real.pi / 100 : ℝ) : ℂ)) - cexp (I * (x : ℂ))) +
        (cexp (I * (x : ℂ)) - ∑ m ∈ Finset.range 8, (I * (x : ℂ)) ^ m / (m.factorial : ℂ)) +
        ((∑ m ∈ Finset.range 8, (I * (x : ℂ)) ^ m / (m.factorial : ℂ)) - r)‖ := by
        congr 1; ring
    _ ≤ 1 / 10 ^ 11 + 1 / 10 ^ 11 + 9 / 10 ^ 10 := (norm_add₃_le).trans (by gcongr)
    _ ≤ 1 / 10 ^ 9 := by norm_num

/-- The sine at step `n` of a hundred, within `n * 10^-9`. -/
theorem sin_close (n : ℕ) :
    |Real.sin (2 * Real.pi * n / 100) - (rotation n).2 / 10 ^ (10 * n)| ≤ n / 10 ^ 9 := by
  have h := pow_close (z := cexp (I * ((2 * Real.pi / 100 : ℝ) : ℂ)))
    (w := ⟨9980267284 / 10 ^ 10, 627905195 / 10 ^ 10⟩) (by rw [norm_exp_I_mul_ofReal])
    (by
      rw [← sq_le_one_iff₀ (norm_nonneg _), Complex.sq_norm, Complex.normSq_mk]; norm_num) step_close n
  rw [rotation_eq, ← Complex.exp_nat_mul] at h
  have e : (n : ℂ) * (I * ((2 * Real.pi / 100 : ℝ) : ℂ)) = ((2 * Real.pi * n / 100 : ℝ) : ℂ) * I := by push_cast; ring
  rw [e, Complex.exp_mul_I, ← Complex.ofReal_cos, ← Complex.ofReal_sin] at h
  have h' := (Complex.abs_im_le_norm _).trans h
  rw [Complex.sub_im, Complex.add_im, Complex.ofReal_im, zero_add, Complex.im_ofReal_mul, Complex.I_im, mul_one] at h'
  rw [div_eq_mul_one_div (n : ℝ)]
  exact h'

/-- Every entry of the default table is within 0.4632 of 2500 times the approximated sine at its step. -/
theorem toneTable_near_rotation : (toneTableDefault.zipIdx.all fun p =>
    decide (10000 * |p.1 * 10 ^ (10 * p.2) - 2500 * (rotation p.2).2| ≤ 4632 * 10 ^ (10 * p.2))) = true := by decide +kernel

end Sys2Proof.Machine
end

