-- ==== Sys2Proof/Tests/Slice0.lean ====
section
/-! SUPPORT. The model's own tests: frames written out from the spec decode, each well-formedness check refuses an ill-formed
term, small one-step tests with the values of 95_test_vectors.md, and a witness for the hypotheses of every statement. -/

namespace Sys2Proof.Tests

open Sys2Proof.Machine

set_option Elab.async false

/-! ## Small states -/

/-- The operands of program P4 (95_test_vectors.md section 7) with a carrier of 10 MHz at full scale. -/
def loaded : State :=
  State.start { mode := some .frequencyModulatedTone, freq := some 10000000, tone := some 1000, tone2 := some 440,
                level := some (.int 16383), verbosity := [] }

/-- After INIT, with the amplitude of -6 dB converted (6.1: ASF = 8211). -/
def ready : State :=
  { initPins params loaded with asfRaw := some 8211, asf := some 8211, asfbuf := some #v[0x20, 0x13], shreg := some 0 }

/-- RAMBUF holding `n` zero bytes. -/
def zeroRam (n : ℕ) : List Host.Cell := memSetBytes [] 0 (List.replicate n 0)

theorem zeroRam_get (n a : ℕ) (h : a < n) : memGet (zeroRam n) a = (List.replicate n (0 : Byte))[a]? := by
  rw [zeroRam, memGet_memSetBytes, if_pos ⟨Nat.zero_le a, by simpa using h⟩, Nat.sub_zero]

theorem zeroRam_read (n : ℕ) (h : n ≤ 400) :
    State.ramRead 0 n { ready with rambuf := zeroRam n } = .ok (List.replicate n 0) := by
  have hg := memGetBytes_ok (m := zeroRam n) (a := 0) (bs := List.replicate n 0)
    (fun k hk => by rw [Nat.zero_add, zeroRam_get n k (by simpa using hk)]; exact List.getElem?_eq_getElem hk)
  rw [List.length_replicate] at hg
  unfold State.ramRead
  rw [if_neg (by simp [rambufSize]; omega)]
  exact hg

/-- The next state of an outcome. -/
def after (o : Host.Outcome State Fault Refusal) : Option State :=
  match o with
  | .next t => some t
  | .fault _ => none
  | .refused _ => none

/-- Whether an outcome is a refusal with the spec's reason. -/
def refusedAs (o : Host.Outcome State Fault Refusal) (r : State → Refusal) (s : State) : Bool :=
  match o with
  | .refused e => e == r s.refusedEnd
  | .next _ => false
  | .fault _ => false

/-- The instruction and the payload of a decoded byte string. -/
def decodedAs (bs : List Byte) : Option (Instr × List Byte) :=
  match decode params bs with
  | .ok d => some (d.instr, d.payload)
  | .error _ => none

/-- The rejection of a byte string. -/
def rejectedAs (bs : List Byte) : Option DecodeError :=
  match decode params bs with
  | .ok _ => none
  | .error e => some e

/-! ## Decoding: frames bit by bit, from 95_test_vectors.md 6.1 -/

theorem test_decode_wr_cfr1 :
    decodedAs [0b00000000, 0b00000010, 0b00000000, 0b00000000, 0b01000000] = some (.wrCfr1, [0x02, 0x00, 0x00, 0x40]) := by
  decide +kernel

theorem test_decode_wr_cfr2 :
    decodedAs [0b00000001, 0b00000000, 0b00000000, 0b00100100] = some (.wrCfr2, [0x00, 0x00, 0x24]) := by decide +kernel

theorem test_decode_wr_asf : decodedAs [0b00000010, 0b00111111, 0b11111111] = some (.wrAsf, [0x3F, 0xFF]) := by
  decide +kernel

theorem test_decode_wr_arr : decodedAs [0b00000011, 0b10100101] = some (.wrArr, [0xA5]) := by decide +kernel

theorem test_decode_wr_ftw0 :
    decodedAs [0b00000100, 0b00000110, 0b01100110, 0b01100110, 0b01100110] =
      some (.wrFtw0, [0x06, 0x66, 0x66, 0x66]) := by decide +kernel

theorem test_decode_wr_rscw :
    decodedAs [0b00000111, 0b11101000, 0b00000011, 0b01100011, 0b00000000, 0b10000000] =
      some (.wrRscw .tone1, [0xE8, 0x03, 0x63, 0x00, 0x80]) := by decide +kernel

theorem test_decode_wr_ram :
    (decodedAs (0b00001011 :: List.replicate 400 0b01100110)).map (fun p => (p.1, p.2.length)) = some (.wrRam, 400) := by
  decide +kernel

theorem test_decode_table_word :
    decodeTableWord 24 0b11111111_00111111_00000010 = some .wrAsf ∧ decodeTableWord 8 0b00000011 = some .wrArr := by
  decide +kernel

theorem test_decode_rejects :
    rejectedAs [] = some .noInstructionByte ∧ rejectedAs [0x05, 0x00] = some (.unknownInstructionByte 0x05) ∧
    rejectedAs [0x04, 0x06, 0x66, 0x66] = some (.shortPayload .ftw0 3) := by decide +kernel

/-- The internal operations have no words (30_encoding.md R99): their place in the programs decodes to them. -/
theorem test_internal_slots :
    program params .frequencyModulatedTone 6 = some (.genRamtab .freq) ∧
    program params .frequencyModulatedTone 9 = some (.btone2 10) ∧
    program params .frequencyModulatedTone 12 = some (.sleep 500) ∧
    program params .frequencyModulatedTone 14 = some (.jmp 10) ∧
    program params .singleFrequency 7 = some (.exit 0) ∧ program params .singleFrequency 8 = none := by decide +kernel

/-- The wire order of a frame (30_encoding.md R90): the 16 bits of `XFER 0x0B, [0xA5]` (95_test_vectors.md section 5). -/
theorem test_frame_bits :
    frameBits 0x0B [0xA5] =
      [false, false, false, false, true, false, true, true, true, false, true, false, false, true, false, true] := by
  decide +kernel

/-! ## Well-formedness: each check refuses an ill-formed term -/

theorem test_wf_jmp : (Instr.jmp 15).wellFormed = false ∧ (Instr.jmp 14).wellFormed = true := by decide

theorem test_wf_btone2 : (Instr.btone2 15).wellFormed = false ∧ (Instr.btone2 10).wellFormed = true := by decide

theorem test_wf_payload_short : ChipReg.payloadFits params .ftw0 [0x06, 0x66, 0x66] = false := by decide +kernel

theorem test_wf_addrs_not_distinct : Config.addrsDistinct { params with addrArr := 0x00 } = false := by decide +kernel

theorem test_wf_lengths : Config.lengthsAgree { params with cfr2Payload := [0x00] } = false := by decide +kernel

theorem test_wf_ram_enable_two_bits :
    Config.ramEnableIsOneBit { params with cfr1RamEn := [0xC0, 0x00, 0x00, 0x00] } = false := by decide +kernel

theorem test_wf_ram_enable_already_set :
    Config.ramEnableIsOneBit { params with cfr1Base := [0x82, 0x00, 0x00, 0x40] } = false := by decide +kernel

/-- R223: each of the two flags missing from CFR1_BASE, and a CFR1_RAM_EN that is not the RAM-enable bit. -/
theorem test_wf_cfr1_flags :
    Config.cfr1FlagsSet params = true ∧
    Config.cfr1FlagsSet { params with cfr1Base := [0x00, 0x00, 0x00, 0x40] } = false ∧
    Config.cfr1FlagsSet { params with cfr1Base := [0x02, 0x00, 0x00, 0x00] } = false ∧
    Config.cfr1FlagsSet { params with cfr1RamEn := [0x40, 0x00, 0x00, 0x00] } = false := by decide +kernel

theorem test_wf_tone_table : Config.toneTableInRange { params with tonePeak := 2499 } = false := by decide +kernel

/-- R167: a hundred entries in range with both peaks are no sine if the peaks are neighbours. -/
theorem test_wf_tone_table_not_a_sine :
    Config.toneTableInRange { params with toneTable := 2500 :: -2500 :: List.replicate 98 0 } = true ∧
    ¬ Config.toneTableSamplesSine { params with toneTable := 2500 :: -2500 :: List.replicate 98 0 } := by
  refine ⟨by decide +kernel, fun ⟨phase, steps, hs, h⟩ => ?_⟩
  have h0 := abs_lt.mp (h 0 2500 rfl)
  have h1 := abs_lt.mp (h 1 (-2500) rfl)
  have hs' : (99 : ℝ) ≤ steps := by
    have : 99 ≤ steps := by rcases hs with hs | hs <;> simp only [params] at hs <;> omega
    exact_mod_cast this
  have hd := Real.abs_sin_sub_sin_le (phase + 2 * Real.pi * (0 : ℕ) / steps) (phase + 2 * Real.pi * (1 : ℕ) / steps)
  have hx : |phase + 2 * Real.pi * (0 : ℕ) / steps - (phase + 2 * Real.pi * (1 : ℕ) / steps)| ≤ 1 / 10 := by
    rw [show phase + 2 * Real.pi * (0 : ℕ) / steps - (phase + 2 * Real.pi * (1 : ℕ) / steps) = -(2 * Real.pi / steps) by
      push_cast; ring, abs_neg, abs_of_nonneg (by positivity), div_le_iff₀ (by linarith)]
    linarith [Real.pi_lt_d2]
  have hd' := (abs_le.mp (hd.trans hx)).2
  simp only [params] at h0 h1
  push_cast at h0 h1 hd'
  linarith [h0.2, h1.1]

theorem test_wf_numbers : Config.numbersFit { params with asfMax := 16384 } = false := by decide +kernel

theorem test_wf_config : ¬ Config.wellFormed { params with addrCfr2 := 0x0B } := fun h => by
  have h' : Config.addrsDistinct { params with addrCfr2 := 0x0B } = false := by decide +kernel
  rw [h.1] at h'
  cases h'

/-! ## One step of each operation (95_test_vectors.md) -/

/-- 2.1: the row `f` = 2500, where nearest would differ; and a refusal. -/
theorem test_enc_ftw :
    (after (exec (.encFtw 2500) ready)).map (fun t => (t.ftw, t.ftwbuf)) =
      some (some 0x000068DB, some #v[0x00, 0x00, 0x68, 0xDB]) := by decide +kernel

theorem test_enc_ftw_overflow : refusedAs (exec (.encFtw 400000000) ready) .tuningWordOverflow ready = true := by
  decide +kernel

/-- 2.2: -0.5 dB gives 15467 (floor would give 15466); -90.3 dB still rounds up to 1, -90.31 gives 0. -/
theorem test_enc_asf_rel :
    (after (exec (.encAsfRel (-1 / 2)) ready)).map (fun t => t.asfRaw) = some (some 15467) := by decide +kernel

theorem test_enc_asf_rel_below :
    [(-903 / 10 : ℚ), -9031 / 100].map (fun d => (after (exec (.encAsfRel d) ready)).map (fun t => t.asfRaw)) =
      [some (some 1), some (some 0)] := by decide +kernel

/-- 2.2: `p` = `P` + d gives what `d` gives, whatever `P` is; the effect is on ASF_RAW only. -/
theorem test_enc_asf_dbm : (after (exec (.encAsfDbm 0) ready)).map (fun t => t.asfbuf) = some (some #v[0x20, 0x13]) := rfl

theorem test_enc_asf_int : (after (exec (.encAsfInt 65535) ready)).map (fun t => t.asfRaw) = some (some 65535) := rfl

/-- 2.2: 8211 gives `[0x20,0x13]`; 16384 is fatal. -/
theorem test_chk_asf :
    (after (exec .chkAsf { ready with asfbuf := none })).map (fun t => (t.asf, t.asfbuf)) =
      some (some 0x2013, some #v[0x20, 0x13]) := by decide +kernel

theorem test_chk_asf_fatal :
    (after (exec .chkAsf { ready with asfRaw := some 16384 })).map (fun t => (t.exitCode, t.halted, t.log.head?)) =
      some (some 1, true, some (.exit 1)) := by decide +kernel

/-- Section 3: the tie 2.5 goes away from zero; the exact rate 65535.5 is refused. -/
theorem test_gen_rscw :
    (after (exec (.genRscw 400000) ready)).map (fun t => (t.arate, t.rscwbuf)) =
      some (some 3, some #v[0x03, 0x00, 0x63, 0x00, 0x80]) := by decide +kernel

theorem test_gen_rscw_overflow :
    refusedAs (exec (.genRscw (2000000 / 131071)) ready) .rampRateOverflow ready = true := by decide +kernel

/-- Section 4, carrier 10 MHz: entry 75 is `[0x06,0x65,0xFD,0x8A]`. -/
theorem test_gen_ramtab_entry :
    (match ramtabEntry params 10000000 ready 75 with
      | .ok t => [300, 301, 302, 303].map (memGet t.rambuf)
      | .error _ => []) = [some 0x06, some 0x65, some 0xFD, some 0x8A] := by decide +kernel

/-- Section 4, the domain: a carrier of -1 is refused. -/
theorem test_gen_ramtab_refused : refusedAs (exec (.genRamtab (.value (-1))) ready) .negativeFrequency ready = true := by
  decide +kernel

/-- Section 5: 52 events, SDIO left at the last bit. -/
theorem test_xfer :
    (after (exec (.xfer 0x0B [0xA5]) ready)).map (fun t => (t.frames, t.pins.sdio.level, t.log.length)) =
      some ([⟨0x0B, [0xA5]⟩], .high, 62) := by decide +kernel

theorem test_shift_byte :
    (after (exec (.shiftByte 0x0B) ready)).map (fun t => (t.shreg, t.log.take 3)) =
      some (some 0x00, [.drive .sclk false, .drive .sclk true, .drive .sdio true]) := by decide +kernel

theorem test_strobe :
    (after (exec .strobe ready)).map (fun t => t.log.take 3) =
      some [.drive .ioupdate false, .sleep 1, .drive .ioupdate true] := by decide +kernel

/-- 6.1: the frames of the register writes. -/
theorem test_wr_cfr1 :
    (after (exec .wrCfr1 ready)).map (fun t => (t.frames, t.seqPc)) =
      some ([⟨0x00, [0x82, 0x00, 0x00, 0x40]⟩], 3) := by decide +kernel

theorem test_wr_arr :
    (after (exec .wrArr ready)).map (fun t => (clockPulses t.trace, t.seqPc)) = some (16, 3) := by decide +kernel

theorem test_wr_cfr2 :
    (after (exec .wrCfr2 ready)).map (fun t => t.frames) = some [⟨0x01, [0x00, 0x00, 0x24]⟩] := by decide +kernel

theorem test_wr_asf :
    (after (exec .wrAsf ready)).map (fun t => t.frames) = some [⟨0x02, [0x20, 0x13]⟩] := by decide +kernel

theorem test_wr_ftw0 :
    (after (exec .wrFtw0 ready)).map (fun t => (t.frames, t.ftw)) =
      some ([⟨0x04, [0x06, 0x66, 0x66, 0x66]⟩], some 0x06666666) := by decide +kernel

theorem test_wr_ram :
    ∃ t, exec .wrRam { ready with rambuf := zeroRam 400 } = .next t ∧ t.seqPc = 3 ∧ t.pins.cs.level = .low := by
  refine ⟨_, execWrRam_ok (zeroRam_read 400 le_rfl) (by decide +kernel), by rw [advance_seqPc, afterXfer_seqPc]; decide +kernel, ?_⟩
  rw [advance_pins, afterXfer_pins, replay_frame_pins]
  decide +kernel

theorem test_wr_ram_unloaded : refusedAs (exec .wrRam ready) (.unloadedRegister .rambuf) ready = true := by decide +kernel

theorem test_wr_rscw :
    (after (exec (.wrRscw .tone2) ready)).map (fun t => (t.frames, t.arate)) =
      some ([⟨0x07, [0xE1, 0x08, 0x63, 0x00, 0x80]⟩], some 2273) := by decide +kernel

theorem test_wr_rscw_default :
    (after (exec (.wrRscw .tone1) { ready with tone1 := some 0 })).map (fun t => (t.frames, t.tone1)) =
      some ([⟨0x07, [0xE8, 0x03, 0x63, 0x00, 0x80]⟩], some 0) := by decide +kernel

/-- 6.2: a carrier just above 160 MHz passes with the warning; just above 200 MHz is fatal. -/
theorem test_validate_warns :
    (after (exec .validate { loaded with freq := some (320000001 / 2), level := some (.int 1) })).map
      (fun t => (t.trace, t.warnHi, t.asfbuf, t.seqPc)) =
      some ([.diag .freqHigh], true, some #v[0x00, 0x01], 1) := by decide +kernel

theorem test_validate_fatal :
    (after (exec .validate { loaded with freq := some (400000001 / 2) })).map
      (fun t => (t.trace, t.exitCode, t.asfRaw, t.asf, t.seqPc)) =
      some ([.diag (.fatal .freqRange), .exit 1], some 1, some 16383, none, 0) := by decide +kernel

/-- 6.3. -/
theorem test_init :
    (after (exec .init loaded)).map (fun t => (t.trace, t.pins.sdio, t.seqPc)) =
      some ([.dir .reset, .dir .cs, .dir .sclk, .dir .sdio, .dir .ioupdate, .drive .reset true, .drive .cs true,
        .drive .ioupdate false, .drive .sclk false, .drive .reset false], ⟨.output, .undriven⟩, 2) := by decide +kernel

/-- 6.4. -/
theorem test_btone2_branches : (after (exec (.btone2 10) ready)).map (fun t => (t.seqPc, t.halted)) = some (10, false) := by
  decide +kernel

theorem test_btone2_negative_exits :
    (after (exec (.btone2 10) { ready with tone2 := some (-5), seqPc := 9 })).map
      (fun t => (t.seqPc, t.exitCode, t.log.head?)) = some (9, some 0, some (.exit 0)) := by decide +kernel

theorem test_sleep :
    (after (exec (.sleep 500) { ready with seqPc := 10 })).map (fun t => (t.seqPc, t.log.head?)) =
      some (11, some (.sleep 500)) := by decide +kernel

theorem test_jmp : (after (exec (.jmp 10) { ready with seqPc := 14 })).map (fun t => t.seqPc) = some 10 := by decide +kernel

theorem test_exit :
    (after (exec (.exit 0) { ready with seqPc := 7 })).map (fun t => (t.seqPc, t.halted, t.exitCode)) =
      some (7, true, some 0) := by decide +kernel

/-- P2: the run of an out-of-range carrier is over after its first row. -/
theorem test_prog_sf :
    (after (exec .progSf { loaded with freq := some 250000000 })).map (fun t => (t.trace, t.seqPc, t.asfbuf)) =
      some ([.diag (.fatal .freqRange), .exit 1], 0, none) := by decide +kernel

/-- 6.2, the last kind of row: an amplitude out of range. -/
theorem test_prog_fm :
    (after (exec .progFm { loaded with level := some (.int 16384) })).map (fun t => (t.trace, t.exitCode)) =
      some ([.diag (.fatal .ampRange), .exit 1], some 1) := by decide +kernel

/-- From reset with nothing loaded the fetched row answers the spec's refusal (10_state.md R43). -/
theorem test_step_from_reset : refusedAs (step .reset) (.unloadedRegister .mode) .reset = true := by decide +kernel

/-! ## Witnesses: the hypotheses of the statements can be met -/

theorem test_hyp_decode_encode_frame :
    params.addrsDistinct = true ∧ ChipReg.payloadFits params .asf [0x3F, 0xFF] = true := by decide +kernel

theorem test_hyp_decode_encode_instr :
    ((Instr.wrRscw .tone2).chipReg? = some .rscw ∧ ChipReg.payloadFits params .rscw [1, 2, 3, 4, 5] = true) ∧
    Instr.chipReg? .init = none ∧ (∀ r : ChipReg, r.addr params ≠ 0x05) := by
  refine ⟨by decide +kernel, rfl, fun r => ?_⟩
  cases r <;> decide +kernel

theorem test_hyp_step_runs_program_row :
    loaded.halted = false ∧ loaded.mode = some .frequencyModulatedTone ∧
    program params .frequencyModulatedTone loaded.seqPc = some .validate := by decide +kernel

theorem test_hyp_step_stops :
    (exitRun 0 ready).halted = true ∧ (State.reset.halted = false ∧ State.reset.mode = none) ∧
    program params .frequencyModulatedTone 15 = none ∧ program params .singleFrequency 8 = none := by decide +kernel

theorem test_hyp_placed_word : decodeTableWord 8 0x0B = some .wrRam := by decide +kernel

/-- The bounds of ENC_FTW's domain: 0 and the largest word (2.1, first and last row). -/
theorem test_hyp_enc_ftw :
    ready.debug = some false ∧ (0 : ℚ) ≤ 0 ∧ wordOf 0 < 2 ^ 32 ∧
    (0 : ℚ) ≤ 39999999995 / 100 ∧ wordOf (39999999995 / 100) < 2 ^ 32 ∧ wordOf (39999999995 / 100) = 4294967295 := by
  decide +kernel

theorem test_hyp_enc_ftw_verbose :
    ({ ready with debug := some true } : State).debug = some true ∧ (0 : ℚ) ≤ 1 ∧ wordOf 1 < 2 ^ 32 := by decide +kernel

theorem test_hyp_encoder_refusals_ftw :
    ((-1 / 1000 : ℚ) < 0 ∧ ({ ready with freq := some (-1 / 1000) } : State).freq = some (-1 / 1000)) ∧
    (2 ^ 32 ≤ wordOf 400000000 ∧ ({ ready with freq := some 400000000 } : State).freq = some 400000000) := by decide +kernel

theorem test_hyp_encoder_refusals_rscw :
    (({ ready with tone1 := some (-440) } : State).tone .tone1 = some (-440) ∧ (-440 : ℚ) < 0) ∧
    (({ ready with tone2 := some (2000000 / 131071) } : State).tone .tone2 = some (2000000 / 131071) ∧
      (0 : ℚ) ≤ 2000000 / 131071 ∧ ¬ toneAdmitted (2000000 / 131071)) := by
  unfold toneAdmitted; decide +kernel

theorem test_hyp_enc_ftw_integer_test :
    ready.debug = some false ∧ (0 : ℚ) ≤ 1 ∧ 10 < 2 ^ 32 ∧ (1 : ℚ) ≤ 2500 ∧
    (∃ t v u w, exec (.encFtw 1) ready = .next t ∧ t.ftw = some v ∧ exec (.encFtw 2500) ready = .next u ∧
      u.ftw = some w) := by
  refine ⟨by decide +kernel, by decide +kernel, by decide, by decide +kernel, ?_⟩
  have h1 := encFtw_quiet (s := ready) (f := 1) rfl (by norm_num) (by decide +kernel)
  have h2 := encFtw_quiet (s := ready) (f := 2500) rfl (by norm_num) (by decide +kernel)
  exact ⟨ready.withWord 1, _, ready.withWord 2500, _, congrArg (finish ready) h1, rfl, congrArg (finish ready) h2, rfl⟩

theorem test_hyp_asf_rel_rational : 0 < 1 ∧ 1 ≤ 1638 ∧ ∃ t, exec (.encAsfRel ((-20 : ℤ) / (1 : ℕ) : ℚ)) ready = .next t :=
  ⟨by decide, by decide, _, rfl⟩

theorem test_hyp_asf_rel_properties :
    ((-20 : ℚ) ≤ -6 ∧ ∃ t u m n, exec (.encAsfRel (-20)) ready = .next t ∧ t.asfRaw = some m ∧
      exec (.encAsfRel (-6)) ready = .next u ∧ u.asfRaw = some n) ∧
    ((-1 / 10000 : ℚ) < 0 ∧ ∃ t n, exec (.encAsfRel (-1 / 10000)) ready = .next t ∧ t.asfRaw = some n) :=
  ⟨⟨by decide +kernel, _, _, _, _, rfl, rfl, rfl, rfl⟩, by decide +kernel, _, _, rfl, rfl⟩

theorem test_hyp_asf_dbm_at_maximum : ∃ p : ℚ, p = params.pMaxDbm := ⟨_, rfl⟩

theorem test_hyp_chk_asf :
    (({ ready with asfRaw := some 16383 } : State).asfRaw = some 16383 ∧ 16383 ≤ 16383) ∧
    (({ ready with asfRaw := some 16384 } : State).asfRaw = some 16384 ∧ 16383 < 16384) := by decide

/-- The bounds of GEN_RSCW's domain: 0, and the largest rate (section 3). -/
theorem test_hyp_gen_rscw : toneAdmitted 0 ∧ toneAdmitted (15259 / 1000) ∧ toneAdmitted 1000 ∧ toneAdmitted 440 := by
  unfold toneAdmitted; decide +kernel

theorem test_hyp_gen_ramtab :
    ready.debug = some false ∧ ({ ready with debug := some true } : State).debug = some true ∧
    ready.freq = some 10000000 ∧ (2500 : ℚ) ≤ 2500 ∧ (2500 : ℚ) + 2500 < params.sysfreq ∧
    (2500 : ℚ) ≤ 10000000 ∧ (10000000 : ℚ) + 2500 < params.sysfreq := by decide +kernel

theorem test_hyp_gen_ramtab_refusals :
    ready.debug ≠ none ∧ (2499 : ℚ) < 2500 ∧ (2500 : ℚ) ≤ 399997500 ∧ params.sysfreq ≤ 399997500 + 2500 := by
  decide +kernel

theorem test_hyp_all_out : ready.pins.allOut = true := by decide +kernel

theorem test_hyp_unconfigured :
    (State.reset.pins.get .sclk).dir = .input ∧ Instr.chipReg? .wrArr = some .arr := by decide

theorem test_hyp_xfer_next : ∃ t, exec (.xfer 0x0B [0xA5]) ready = .next t := ⟨_, rfl⟩

theorem test_hyp_link_ready : ready.linkReady = true := by decide +kernel

theorem test_hyp_register_writes :
    ready.mode = some .frequencyModulatedTone ∧ loaded.freq = some 10000000 ∧ ready.debug ≠ none ∧
    ready.asfbuf = some #v[0x20, 0x13] ∧ wordOf 10000000 < 2 ^ 32 ∧ (0 : ℚ) ≤ 10000000 ∧
    ready.tone .tone1 = some 1000 ∧ ready.tone .tone2 = some 440 ∧
    ({ ready with mode := some .singleFrequency } : State).mode = some .singleFrequency := by decide +kernel

theorem test_hyp_wr_ram :
    (List.replicate 400 (0 : Byte)).length = 400 ∧
    (∀ a, a < 400 → memGet (zeroRam 400) a = (List.replicate 400 (0 : Byte))[a]?) ∧
    ({ ready with rambuf := zeroRam 400 } : State).pins.allOut = true :=
  ⟨List.length_replicate, zeroRam_get 400, by decide +kernel⟩

theorem test_hyp_one_frame :
    Instr.chipReg? .wrCfr2 = some .cfr2 ∧ ready.linkReady = true ∧ ∃ t, exec .wrCfr2 ready = .next t :=
  ⟨rfl, by decide +kernel, _, rfl⟩

/-- VALIDATE's closed bounds (R253): 0 and 200 MHz pass, at 16383. -/
theorem test_hyp_validate_passes :
    loaded.level = some (.int 16383) ∧ levelGives (.int 16383) 16383 ∧ 16383 ≤ 16383 ∧
    ({ loaded with freq := some 0 } : State).freq = some 0 ∧ (0 : ℚ) ≤ 0 ∧
    ({ loaded with freq := some 200000000 } : State).freq = some 200000000 ∧ (200000000 : ℚ) ≤ 200000000 :=
  ⟨rfl, rfl, le_rfl, rfl, le_rfl, rfl, le_rfl⟩

theorem test_hyp_validate_fatal :
    levelGives (.int 16384) 16384 ∧ 16383 < 16384 ∧ (-1 : ℚ) < 0 ∧ (200000000 : ℚ) < 400000001 / 2 ∧
    ({ loaded with level := some (.int 16384) } : State).level = some (.int 16384) ∧
    ({ loaded with freq := some (-1) } : State).freq = some (-1) :=
  ⟨rfl, by decide, by decide +kernel, by decide +kernel, rfl, rfl⟩

theorem test_hyp_btone2 :
    (({ ready with tone2 := some (1 / 1000) } : State).tone2 = some (1 / 1000) ∧ (0 : ℚ) < 1 / 1000) ∧
    (({ ready with tone2 := some 0 } : State).tone2 = some 0 ∧ (0 : ℚ) ≤ 0) := by decide +kernel

theorem test_hyp_unloaded :
    State.reset.mode = none ∧ State.reset.asfbuf = none ∧ State.reset.freq = none ∧
    memGet State.reset.rambuf 399 = none ∧ State.reset.tone1 = none ∧ State.reset.tone2 = none ∧
    State.reset.level = none ∧ State.reset.asfRaw = none ∧ State.reset.debug = none ∧
    ({ State.reset with level := some (.int 0) } : State).level ≠ none := by decide

theorem test_hyp_macros :
    loaded.seqPc = 0 ∧ loaded.halted = false ∧ loaded.mode = some .frequencyModulatedTone ∧
    ({ loaded with mode := some .singleFrequency } : State).mode = some .singleFrequency := by decide

theorem test_hyp_runs :
    levelGives (.int 0) 0 ∧ levelGives (.int 16383) 16383 ∧ (2500 : ℚ) ≤ 2500 ∧ (2500 : ℚ) ≤ 200000000 ∧
    (200000000 : ℚ) ≤ 200000000 ∧ (0 : ℚ) ≤ 0 := by
  refine ⟨rfl, rfl, ?_, ?_, ?_, ?_⟩ <;> decide +kernel

theorem test_hyp_tone_loop :
    ({ ready with seqPc := 10 } : State).mode = some .frequencyModulatedTone ∧
    ({ ready with seqPc := 10 } : State).seqPc = 10 ∧ ({ ready with seqPc := 10 } : State).halted = false ∧
    ({ ready with seqPc := 10 } : State).linkReady = true ∧ ({ ready with seqPc := 10 } : State).tone1 = some 1000 ∧
    ({ ready with seqPc := 10 } : State).tone2 = some 440 ∧ toneAdmitted 1000 ∧ toneAdmitted 440 := by
  unfold toneAdmitted; decide +kernel

theorem test_hyp_tone_loop_cut :
    TerminatedTrace { ready with seqPc := 10 } [] ∧ ∀ c, Event.exit c ∉ ({ ready with seqPc := 10 } : State).trace := by
  refine ⟨⟨0, _, rfl, List.nil_prefix⟩, fun c h => ?_⟩
  have h2 : (({ ready with seqPc := 10 } : State).trace).all
      (fun e => match e with | .exit _ => false | _ => true) = true := by decide +kernel
  exact absurd (List.all_eq_true.mp h2 _ h) (by simp)

/-- Both ends of the tone loop, rows 10 and 14. -/
theorem test_hyp_tone_loop_step :
    ({ ready with seqPc := 10 } : State).inToneLoop ∧ ({ ready with seqPc := 14 } : State).inToneLoop :=
  have h := test_hyp_gen_rscw
  ⟨⟨rfl, by decide, by decide, rfl, by decide +kernel, 1000, 440, rfl, rfl, h.2.2.1, h.2.2.2⟩,
    rfl, by decide, by decide, rfl, by decide +kernel, 1000, 440, rfl, rfl, h.2.2.1, h.2.2.2⟩

/-- At reset, and with a byte shifted that no strobe has committed. -/
theorem test_hyp_init_link :
    State.reset.pinsFollowTrace = true ∧ (observe params State.reset.trace).staged = none ∧
    (shiftByte 0x0B ready).pinsFollowTrace = true ∧ (observe params (shiftByte 0x0B ready).trace).staged = none ∧
    (observe params (shiftByte 0x0B ({ ready with log := .drive .cs false :: ready.log } : State)).trace).bytes = [0x0B] := by
  decide +kernel

/-- R66: a byte shifted before INIT is no part of the first frame after it. -/
theorem test_observer_init_starts_a_frame :
    (after (exec .init (shiftByte 0xFF (ready.drive .cs false)))).bind (fun t =>
      (after (exec (.xfer 0x0B [0xA5]) t)).map (fun u => u.frames)) = some [⟨0x0B, [0xA5]⟩] := by decide +kernel

theorem test_hyp_unloaded_debug :
    let s : State := { ready with debug := none }
    s.debug = none ∧ s.freq = some 10000000 ∧ (0 : ℚ) ≤ 10000000 ∧ wordOf 10000000 < 2 ^ 32 ∧
    (2500 : ℚ) ≤ 2500 ∧ (2500 : ℚ) + 2500 < params.sysfreq ∧ (2500 : ℚ) ≤ 10000000 ∧
    (10000000 : ℚ) + 2500 < params.sysfreq := by decide +kernel

theorem test_hyp_tone_table : params.toneTable[25]? = some 2500 := rfl

theorem test_hyp_fatal_run :
    ({ mode := none, freq := some 250000000, tone := none, tone2 := none, level := some (.int 16383), verbosity := [] }
      : Request).freq = some 250000000 ∧ levelGives (.int 16383) 16383 ∧ (200000000 : ℚ) < 250000000 :=
  ⟨rfl, rfl, by decide +kernel⟩

theorem test_hyp_hazards : ready.hazardInv = true ∧ (∃ t, exec .wrCfr2 ready = .next t) ∧ ∃ t, step ready = .next t :=
  ⟨by decide +kernel, ⟨_, rfl⟩, _, rfl⟩

theorem test_hyp_step_invariants :
    Memory.wf ready.rambuf = true ∧ ready.buffersInv = true ∧ ready.endInv = true ∧ ∃ t, step ready = .next t :=
  ⟨by decide +kernel, by decide +kernel, by decide +kernel, _, rfl⟩

theorem test_hyp_only_init_releases :
    Instr.wrCfr2 ≠ .init ∧ Instr.wrCfr2 ≠ .progSf ∧ Instr.wrCfr2 ≠ .progFm ∧ ∃ t, exec .wrCfr2 ready = .next t :=
  ⟨by decide, by decide, by decide, _, rfl⟩

theorem test_hyp_seq_pc_advances :
    ready.mode = some .frequencyModulatedTone ∧ program params .frequencyModulatedTone ready.seqPc = some .wrCfr1 ∧
    (∃ t, step ready = .next t ∧ t.halted = false) ∧ (∀ k, Instr.wrCfr1 ≠ .btone2 k) ∧ (∀ k, Instr.wrCfr1 ≠ .jmp k) ∧
    (∃ t, step { ready with seqPc := 9, tone2 := some 0 } = .next t ∧ t.halted = true) :=
  ⟨rfl, rfl, ⟨_, rfl, rfl⟩, nofun, nofun, _, rfl, rfl⟩

theorem test_hyp_debug :
    (∃ t, exec (.encFtw 1) { ready with debug := some true } = .next t) ∧
    ∃ t, exec (.encFtw 1) { ready with debug := some false } = .next t :=
  ⟨⟨_, congrArg (finish _) (encFtw_verbose (s := { ready with debug := some true }) (f := 1) rfl (by norm_num)
    (by decide +kernel))⟩,
   ⟨_, congrArg (finish _) (encFtw_quiet (s := { ready with debug := some false }) (f := 1) rfl (by norm_num)
    (by decide +kernel))⟩⟩

end Sys2Proof.Tests
end

section
/-! SUPPORT. What every operation keeps (10_state.md): the operand registers, the records of TRACE, the canonical form of
RAMBUF, the buffers as the bytes of their registers, and the agreement of HALTED, EXIT_CODE and the `Exit` record; for every
operation by itself first, then for the macros, which are runs of such operations. -/

namespace Sys2Proof.Machine

/-! ## The invariants in the terms proofs use -/

/-- The terminal record of TRACE (10_state.md R40). -/
def Event.isExit : Event → Bool
  | .exit _ => true
  | .dir _ | .drive _ _ | .sleep _ | .diag _ | .trace _ => false

theorem endInv_iff (s : State) :
    s.endInv = true ↔ s.halted = true ∨ (s.exitCode = none ∧ ∀ e ∈ s.log, e.isExit = false) := by
  simp only [State.endInv, Bool.or_eq_true, Bool.and_eq_true, beq_iff_eq, List.all_eq_true]
  refine or_congr_right (and_congr_right fun _ => forall₂_congr fun e _ => ?_)
  cases e <;> simp [Event.isExit]

theorem buffersInv_iff (s : State) :
    s.buffersInv = true ↔ s.ftwbuf = s.ftw.map be4 ∧ s.asfbuf = s.asf.map (fun a => be2 (a.setWidth 16)) ∧
      s.rscwbuf = s.arate.map (rscwBytes params) := by
  simp only [State.buffersInv, Bool.and_eq_true, beq_iff_eq, and_assoc]

/-- An operation that ends no run and appends no `Exit` record keeps the agreement of the two. -/
theorem endInv_of_append {s t : State} {es : List Event} (hlog : t.log = es ++ s.log)
    (hes : ∀ e ∈ es, e.isExit = false) (hh : t.halted = s.halted) (hx : t.exitCode = s.exitCode)
    (h : s.endInv = true) : t.endInv = true := by
  rw [endInv_iff] at h ⊢
  rw [hh, hx, hlog]
  refine h.imp_right fun ⟨hnone, hall⟩ => ⟨hnone, fun e he => ?_⟩
  exact (List.mem_append.mp he).elim (hes e) (hall e)

theorem endInv_of_halted {s : State} (h : s.halted = true) : s.endInv = true := (endInv_iff s).mpr (.inl h)

/-! ## No event of the transport, of INIT or of verbose tracing ends a run -/

theorem isExit_of_isVerbose {e : Event} (h : e.isVerbose = true) : e.isExit = false := by
  cases e with
  | trace text => rfl
  | dir p | drive p l | sleep ms | diag k | exit code => cases h

theorem pauseEvents_isExit (ms : ℕ) : ∀ e ∈ pauseEvents ms, e.isExit = false := by
  unfold pauseEvents
  split <;> simp [Event.isExit]

theorem byteEvents_isExit (b : Byte) : ∀ e ∈ byteEvents b, e.isExit = false := by
  simp [byteEvents, bitsMsbFirst, bitEvents, Event.isExit]

theorem strobeEvents_isExit (c : Config) : ∀ e ∈ strobeEvents c, e.isExit = false := by
  simp only [strobeEvents, List.forall_mem_append, List.forall_mem_singleton]
  exact ⟨⟨⟨⟨pauseEvents_isExit _, rfl⟩, pauseEvents_isExit _⟩, rfl⟩, pauseEvents_isExit _⟩

theorem frameEvents_isExit (c : Config) (i : Byte) (d : List Byte) : ∀ e ∈ frameEvents c i d, e.isExit = false := by
  simp only [frameEvents_eq, List.forall_mem_cons, List.forall_mem_append, List.forall_mem_flatMap]
  exact ⟨rfl, byteEvents_isExit i, fun b _ => byteEvents_isExit b, strobeEvents_isExit c⟩

theorem initEvents_isExit : ∀ e ∈ initEvents, e.isExit = false := by
  simp only [initEvents, List.forall_mem_append]
  exact ⟨⟨by simp [Event.isExit], pauseEvents_isExit _⟩, by simp [Event.isExit]⟩

/-! ## What an operation keeps -/

/-- `t` is a state that an operation may leave from `s`: the operands as they were, TRACE grown (the log is kept newest first),
and each invariant of the state kept by itself. -/
structure Evolves (s t : State) : Prop where
  operands : t.operands = s.operands
  log : s.log <:+ t.log
  rambuf : Memory.wf s.rambuf = true → Memory.wf t.rambuf = true
  buffers : s.buffersInv = true → t.buffersInv = true
  ended : s.endInv = true → t.endInv = true

theorem Evolves.refl (s : State) : Evolves s s := ⟨rfl, List.suffix_rfl, id, id, id⟩

theorem Evolves.trans {s t u : State} (h : Evolves s t) (k : Evolves t u) : Evolves s u :=
  ⟨k.operands.trans h.operands, h.log.trans k.log, k.rambuf ∘ h.rambuf, k.buffers ∘ h.buffers, k.ended ∘ h.ended⟩

/-- `t` is `s` after some events: apart from TRACE only pins, transport registers, SEQ_PC, WARN_HI and the counter of the free
values may differ. -/
def Emits (s : State) (es : List Event) (t : State) : Prop :=
  t.log = es ++ s.log ∧
  { t with log := s.log, pins := s.pins, shreg := s.shreg, bitcnt := s.bitcnt, byteidx := s.byteidx, xlen := s.xlen,
           seqPc := s.seqPc, warnHi := s.warnHi, freeCount := s.freeCount } = s

theorem Emits.evolves {s t : State} {es : List Event} (h : Emits s es t) (hes : ∀ e ∈ es, e.isExit = false) :
    Evolves s t := by
  obtain ⟨hlog, hrest⟩ := h
  have hoperands : t.operands = s.operands := (congrArg State.operands hrest :)
  have hram : t.rambuf = s.rambuf := (congrArg State.rambuf hrest :)
  have hbuf : t.buffersInv = s.buffersInv := (congrArg State.buffersInv hrest :)
  have hhalt : t.halted = s.halted := (congrArg State.halted hrest :)
  have hexit : t.exitCode = s.exitCode := (congrArg State.exitCode hrest :)
  exact ⟨hoperands, hlog ▸ List.suffix_append es s.log, fun h => hram ▸ h, fun h => hbuf ▸ h,
    endInv_of_append hlog hes hhalt hexit⟩

theorem setPc_evolves (s : State) (pc : StepIndex) : Evolves s { s with seqPc := pc } :=
  Emits.evolves (es := []) ⟨rfl, rfl⟩ (by simp)

theorem pause_evolves (ms : ℕ) (s : State) : Evolves s (s.pause ms) := by
  refine Emits.evolves (es := pauseEvents ms) ?_ (pauseEvents_isExit ms)
  unfold State.pause pauseEvents
  split <;> exact ⟨rfl, rfl⟩

theorem shiftByte_evolves (b : Byte) (s : State) : Evolves s (shiftByte b s) := by
  rw [shiftByte_eq]
  exact Emits.evolves ⟨rfl, rfl⟩ (by simpa using byteEvents_isExit b)

theorem strobe_evolves (c : Config) (s : State) : Evolves s (strobe c s) := by
  rw [strobe_eq]
  exact Emits.evolves ⟨rfl, rfl⟩ (by simpa using strobeEvents_isExit c)

theorem afterXfer_evolves (c : Config) (i : Byte) (d : List Byte) (s : State) : Evolves s (afterXfer c i d s) :=
  Emits.evolves ⟨rfl, rfl⟩ (by simpa using frameEvents_isExit c i d)

theorem initPins_evolves (s : State) : Evolves s (initPins params s) := by
  rw [initPins_eq]
  exact Emits.evolves ⟨rfl, rfl⟩ (by simpa using initEvents_isExit)

theorem exitRun_evolves (code : ℕ) (s : State) : Evolves s (exitRun code s) :=
  ⟨rfl, List.suffix_cons _ _, id, id, fun _ => endInv_of_halted rfl⟩

theorem raiseFatal_evolves (cause : FatalCause) (s : State) : Evolves s (raiseFatal cause s) :=
  ⟨rfl, List.suffix_append [_, _] s.log, id, id, fun _ => endInv_of_halted rfl⟩

theorem setAsfRaw_evolves (raw : ℕ) (s : State) : Evolves s { s with asfRaw := some raw } :=
  ⟨rfl, List.suffix_rfl, id, id, id⟩

/-- CHK_ASF loads ASF and ASFBUF together (40_codecs.md R134). -/
theorem storeAsf_evolves (raw : ℕ) (s : State) : Evolves s (storeAsf raw s) := by
  refine ⟨rfl, List.suffix_rfl, id, fun h => ?_, id⟩
  rw [buffersInv_iff] at h ⊢
  exact ⟨h.1, rfl, h.2.2⟩

/-- GEN_RSCW loads ARATE and RSCWBUF together (41_tone_sweep.md R162). -/
theorem withRate_evolves (hz : ℚ) (s : State) : Evolves s (s.withRate hz) := by
  refine ⟨rfl, List.suffix_rfl, id, fun h => ?_, id⟩
  rw [buffersInv_iff] at h ⊢
  exact ⟨h.1, h.2.1, rfl⟩

/-- The tuning-word operations load FTW and FTWBUF together, may write RAMBUF, and append verbose records only (40_codecs.md
R121, 41_tone_sweep.md R170). -/
theorem setWord_evolves {s : State} {w : BitVec 32} {m : List Host.Cell} {new : List Event}
    (hm : Memory.wf s.rambuf = true → Memory.wf m = true) (hnew : ∀ e ∈ new, e.isVerbose = true) :
    Evolves s { s with ftw := some w, ftwbuf := some (be4 w), rambuf := m, log := new ++ s.log } := by
  refine ⟨rfl, List.suffix_append new s.log, hm, fun h => ?_, ?_⟩
  · rw [buffersInv_iff] at h ⊢
    exact ⟨rfl, h.2⟩
  · exact endInv_of_append rfl (fun e he => isExit_of_isVerbose (hnew e he)) rfl rfl

theorem encFtw_evolves {f : ℚ} {s t : State} (h : encFtw params f s = .ok t) : Evolves s t := by
  obtain ⟨new, hnew, -, rfl⟩ := encFtw_frame h
  exact setWord_evolves (m := s.rambuf) id hnew

theorem genRamtab_evolves {c : ℚ} {s t : State} (h : genRamtab params c s = .ok t) : Evolves s t := by
  obtain ⟨w, new, hnew, -, rfl⟩ := genRamtab_cases h
  exact setWord_evolves (fun hm => tableCells_wf c hm le_rfl) hnew

/-- A passed VALIDATE is the conversion, the warning where there is one, and the store of the amplitude (44_sequencer.md R252). -/
theorem validated_eq {f : ℚ} {raw : ℕ} (h : raw ≤ 16383) (s : State) :
    validated f raw s = { storeAsf raw
      (if 160000000 < f then emitWarning { s with asfRaw := some raw } else { s with asfRaw := some raw }) with seqPc := 1 } := by
  rw [storeAsf_eq h, validated]
  split <;> rfl

theorem validated_evolves {f : ℚ} {raw : ℕ} (h : raw ≤ 16383) (s : State) : Evolves s (validated f raw s) := by
  have hwarn : ∀ u : State, Evolves u (emitWarning u) := fun u =>
    Emits.evolves (es := [.diag .freqHigh]) ⟨rfl, rfl⟩ (by simp [Event.isExit])
  rw [validated_eq h]
  refine ((setAsfRaw_evolves raw s).trans ?_).trans ((storeAsf_evolves raw _).trans (setPc_evolves _ 1))
  split
  · exact hwarn _
  · exact .refl _

theorem execValidate_evolves {s t : State} (h : execValidate s = .next t) : Evolves s t := by
  obtain ⟨l, f, -, -, ⟨-, -, hraw, rfl⟩ | ⟨c, pre, -, hpre, rfl⟩⟩ := execValidate_next h
  · exact validated_evolves hraw s
  · refine Evolves.trans ?_ (raiseFatal_evolves c _)
    refine (setAsfRaw_evolves (levelRaw l) s).trans (Emits.evolves (es := pre) ⟨rfl, rfl⟩ ?_)
    rcases hpre with rfl | ⟨rfl, -⟩ <;> simp [Event.isExit]

/-! ## Register writes -/

/-- What a register-write row does before its frame (43_register_frames.md R230, R234): nothing, ENC_FTW or GEN_RSCW. -/
inductive Prepared (s : State) : State → Prop where
  | same : Prepared s s
  | word {f : ℚ} {u : State} (h : encFtw params f s = .ok u) : Prepared s u
  | rate (hz : ℚ) : Prepared s (s.withRate hz)

theorem Prepared.evolves {s u : State} (h : Prepared s u) : Evolves s u := by
  cases h with
  | same => exact .refl s
  | word h => exact encFtw_evolves h
  | rate hz => exact withRate_evolves hz s

theorem Prepared.seqPc {s u : State} (h : Prepared s u) : u.seqPc = s.seqPc := by
  cases h with
  | same => rfl
  | word h => obtain ⟨new, -, -, rfl⟩ := encFtw_frame h; rfl
  | rate hz => rfl

theorem Prepared.halted {s u : State} (h : Prepared s u) : u.halted = s.halted := by
  cases h with
  | same => rfl
  | word h => obtain ⟨new, -, -, rfl⟩ := encFtw_frame h; rfl
  | rate hz => rfl

/-- All a register-write operation can do where it answers: its preparation, one frame, the next row (R220, 10_state.md R31). -/
theorem registerWrite_next {i : Instr} {r : ChipReg} {s t : State} (hr : i.chipReg? = some r) (h : exec i s = .next t) :
    ∃ u d, Prepared s u ∧ t = (afterXfer params (r.addr params) d u).advance := by
  cases i <;> cases hr
  case wrCfr1 =>
    obtain ⟨m, -, -, ht⟩ := execWrCfr1_next h
    exact ⟨s, _, .same, ht⟩
  case wrArr => exact ⟨s, _, .same, (execWrArr_next h).2⟩
  case wrCfr2 => exact ⟨s, _, .same, (execWrCfr2_next h).2⟩
  case wrAsf =>
    obtain ⟨b, -, -, ht⟩ := execWrAsf_next h
    exact ⟨s, _, .same, ht⟩
  case wrFtw0 =>
    obtain ⟨f, u, -, hu, -, ht⟩ := execWrFtw0_next h
    exact ⟨u, _, .word hu, ht⟩
  case wrRam =>
    obtain ⟨bs, -, -, ht⟩ := execWrRam_next h
    exact ⟨s, _, .same, ht⟩
  case wrRscw =>
    obtain ⟨hz, -, -, -, ht⟩ := execWrRscw_next h
    exact ⟨_, _, .rate hz, ht⟩

theorem registerWrite_evolves {i : Instr} {r : ChipReg} {s t : State} (hr : i.chipReg? = some r)
    (h : exec i s = .next t) : Evolves s t := by
  obtain ⟨u, d, hu, rfl⟩ := registerWrite_next hr h
  exact (hu.evolves.trans (afterXfer_evolves _ _ d u)).trans (setPc_evolves _ _)

/-! ## The macros are runs of operations -/

/-- The two operations that expand to rows (44_sequencer.md R257, R258). -/
def isMacro : Instr → Bool
  | .progSf | .progFm => true
  | _ => false

/-- The operations of the rows 0 to 7 of PROG_SF (10_state.md R30). -/
def sfRowInstrs : List Instr :=
  [.validate, .init, .wrCfr1, .wrArr, .wrCfr2, .wrAsf, .wrFtw0, .exit 0]

/-- The operations of the rows 0 to 14 of PROG_FM (R30). -/
def fmRowInstrs : List Instr :=
  [.validate, .init, .wrCfr1, .wrArr, .wrCfr2, .wrAsf, .genRamtab .freq, .wrRam, .wrRscw .tone1, .btone2 10,
   .sleep params.tToggleMs, .wrRscw .tone2, .sleep params.tToggleMs, .wrRscw .tone1, .jmp 10]

theorem exec_progSf_rows (s : State) : exec .progSf s = runRows (sfRowInstrs.map exec) { s with seqPc := 0 } := rfl

theorem exec_progFm_rows (s : State) : exec .progFm s = runRows (fmRowInstrs.map exec) { s with seqPc := 0 } := rfl

theorem sfRowInstrs_isMacro : ∀ i ∈ sfRowInstrs, isMacro i = false := by simp [sfRowInstrs, isMacro]

theorem fmRowInstrs_isMacro : ∀ i ∈ fmRowInstrs, isMacro i = false := by simp [fmRowInstrs, isMacro]

/-- All a run of rows can do where it answers: the first row answers, and ends the run or the other rows go on. -/
theorem runRows_cons_next {row : State → Host.Outcome State Fault Refusal}
    {rest : List (State → Host.Outcome State Fault Refusal)} {s t : State} (h : runRows (row :: rest) s = .next t) :
    ∃ u, row s = .next u ∧ (t = u ∨ runRows rest u = .next t) := by
  unfold runRows at h
  cases hrow : row s with
  | fault e => rw [hrow] at h; cases h
  | refused e => rw [hrow] at h; cases h
  | next u =>
    simp only [hrow] at h
    split at h
    · exact ⟨u, rfl, .inl (by cases h; rfl)⟩
    · exact ⟨u, rfl, .inr h⟩

section
variable {R : State → State → Prop} (refl : ∀ s, R s s) (trans : ∀ {s t u}, R s t → R t u → R s u)
include refl trans

/-- A reflexive and transitive relation that each row's operation meets is met by the run of the rows. -/
theorem runRows_relates {rows : List Instr} (hrow : ∀ i ∈ rows, ∀ s t, exec i s = .next t → R s t) {s t : State}
    (h : runRows (rows.map exec) s = .next t) : R s t := by
  induction rows generalizing s with
  | nil => cases h; exact refl _
  | cons i rest ih =>
    obtain ⟨u, hu, hrest⟩ := runRows_cons_next h
    have hfirst : R s u := hrow i (by simp) s u hu
    rcases hrest with rfl | hrest
    · exact hfirst
    · exact trans hfirst (ih (fun j hj => hrow j (by simp [hj])) hrest)

/-- What every operation but the macros does, and the entry at row 0 does, the macros do. -/
theorem exec_relates (hpc : ∀ s pc, R s { s with seqPc := pc })
    (hop : ∀ i, isMacro i = false → ∀ s t, exec i s = .next t → R s t) {i : Instr} {s t : State}
    (h : exec i s = .next t) : R s t := by
  cases hi : isMacro i with
  | false => exact hop i hi s t h
  | true =>
    cases i with
    | progSf =>
      rw [exec_progSf_rows] at h
      exact trans (hpc s 0) (runRows_relates refl trans (fun j hj => hop j (sfRowInstrs_isMacro j hj)) h)
    | progFm =>
      rw [exec_progFm_rows] at h
      exact trans (hpc s 0) (runRows_relates refl trans (fun j hj => hop j (fmRowInstrs_isMacro j hj)) h)
    | _ => cases hi

end

/-! ## Every operation -/

theorem operation_evolves (i : Instr) (hi : isMacro i = false) (s t : State) (h : exec i s = .next t) : Evolves s t := by
  cases i with
  | wrCfr1 | wrArr | wrCfr2 | wrAsf | wrFtw0 | wrRam | wrRscw r => exact registerWrite_evolves rfl h
  | encFtw f => exact encFtw_evolves (execEncFtw_next h)
  | encAsfRel d => cases h; exact setAsfRaw_evolves _ s
  | encAsfDbm p => cases h; exact setAsfRaw_evolves _ s
  | encAsfInt n => cases h; exact setAsfRaw_evolves n s
  | chkAsf =>
    obtain ⟨n, -, ⟨-, rfl⟩ | ⟨-, rfl⟩⟩ := execChkAsf_next h
    · exact storeAsf_evolves n s
    · exact raiseFatal_evolves .ampRange s
  | genRscw hz => obtain ⟨-, rfl⟩ := execGenRscw_next h; exact withRate_evolves hz s
  | genRamtab k =>
    obtain ⟨c, u, -, hu, rfl⟩ := execGenRamtab_next h
    exact (genRamtab_evolves hu).trans (setPc_evolves u 7)
  | xfer b d => obtain ⟨-, rfl⟩ := execXfer_next h; exact afterXfer_evolves params b d s
  | shiftByte b => cases h; exact shiftByte_evolves b s
  | strobe => cases h; exact strobe_evolves params s
  | validate => exact execValidate_evolves h
  | init => cases h; exact initPins_evolves s
  | btone2 k =>
    obtain ⟨hz, -, ⟨-, rfl⟩ | ⟨-, rfl⟩⟩ := execBtone2_next h
    · exact setPc_evolves s k
    · exact exitRun_evolves 0 s
  | sleep ms => cases h; exact (pause_evolves ms s).trans (setPc_evolves _ _)
  | jmp k => cases h; exact setPc_evolves s k
  | exit code => cases h; exact exitRun_evolves code s
  | progSf | progFm => cases hi

theorem exec_evolves {i : Instr} {s t : State} (h : exec i s = .next t) : Evolves s t :=
  exec_relates .refl .trans setPc_evolves operation_evolves h

/-- Settles O53: a step runs one operation, and every operation keeps each invariant. -/
theorem stateInvariantsKept : Obligations.StateInvariantsKept := by
  intro s t h
  obtain ⟨m, i, -, -, -, hi⟩ := step_next h
  have hst := exec_evolves hi
  exact ⟨hst.rambuf, hst.buffers, hst.ended⟩

/-- Settles O55. TRACE is the log read backwards, so that a log grown at its head is a TRACE grown at its end. -/
theorem operandsFixedTraceGrows : Obligations.OperandsFixedTraceGrows := by
  intro i s t h
  have hst := exec_evolves h
  exact ⟨hst.operands, List.reverse_prefix.mpr hst.log⟩

/-! ## SEQ_PC (10_state.md R31) -/

/-- The rows of both programs, by how they move SEQ_PC: a register write or a wait goes on from where it is, VALIDATE, INIT and
GEN_RAMTAB name the next row and stand at one row only, and the others branch or end the run. -/
theorem program_row_cases {m : Mode} {pc : StepIndex} {i : Instr} (h : program params m pc = some i) :
    (∃ r, i.chipReg? = some r) ∨ (∃ ms, i = .sleep ms) ∨ (pc = 0 ∧ i = .validate) ∨ (pc = 1 ∧ i = .init) ∨
      (pc = 6 ∧ i = .genRamtab .freq) ∨ (∃ k, i = .btone2 k) ∨ (∃ k, i = .jmp k) ∨ (∃ c, i = .exit c) := by
  cases m with
  | singleFrequency =>
    rcases program_sf_cases h with ⟨hpc, rfl⟩ | ⟨hpc, rfl⟩ | ⟨hpc, rfl⟩ | ⟨hpc, rfl⟩ | ⟨hpc, rfl⟩ | ⟨hpc, rfl⟩ |
      ⟨hpc, rfl⟩ | ⟨hpc, rfl⟩ <;> simp [hpc, Instr.chipReg?]
  | frequencyModulatedTone =>
    rcases program_fm_cases h with ⟨hpc, rfl⟩ | ⟨hpc, rfl⟩ | ⟨hpc, rfl⟩ | ⟨hpc, rfl⟩ | ⟨hpc, rfl⟩ | ⟨hpc, rfl⟩ |
      ⟨hpc, rfl⟩ | ⟨hpc, rfl⟩ | ⟨hpc, rfl⟩ | ⟨hpc, rfl⟩ | ⟨hpc, rfl⟩ | ⟨hpc, rfl⟩ | ⟨hpc, rfl⟩ | ⟨hpc, rfl⟩ |
      ⟨hpc, rfl⟩ <;> simp [hpc, Instr.chipReg?]

/-- SEQ_PC after a row that does not branch: the next row while the run goes on, unmoved once it is over. -/
def AdvancesOrEnds (s t : State) : Prop :=
  (t.halted = true → t.seqPc = s.seqPc) ∧ (t.halted = false → t.seqPc = s.seqPc + 1)

theorem advancesOrEnds_of_next {s t : State} (hh : t.halted = false) (hpc : t.seqPc = s.seqPc + 1) :
    AdvancesOrEnds s t := ⟨fun h => (by rw [hh] at h; cases h), fun _ => hpc⟩

theorem advancesOrEnds_of_end {s t : State} (hh : t.halted = true) (hpc : t.seqPc = s.seqPc) :
    AdvancesOrEnds s t := ⟨fun _ => hpc, fun h => (by rw [hh] at h; cases h)⟩

theorem registerWrite_advances {i : Instr} {r : ChipReg} {s t : State} (hr : i.chipReg? = some r)
    (hh : s.halted = false) (h : exec i s = .next t) : AdvancesOrEnds s t := by
  obtain ⟨u, d, hu, rfl⟩ := registerWrite_next hr h
  exact advancesOrEnds_of_next (by simp [hu.halted, hh]) (by simp [hu.seqPc])

theorem execValidate_advances {s t : State} (hpc : s.seqPc = 0) (hh : s.halted = false) (h : execValidate s = .next t) :
    AdvancesOrEnds s t := by
  obtain ⟨l, f, -, -, ⟨-, -, -, rfl⟩ | ⟨c, pre, -, -, rfl⟩⟩ := execValidate_next h
  · exact advancesOrEnds_of_next hh (by rw [hpc]; rfl)
  · exact advancesOrEnds_of_end rfl rfl

theorem execGenRamtab_advances {k : Carrier} {s t : State} (hpc : s.seqPc = 6) (hh : s.halted = false)
    (h : execGenRamtab k s = .next t) : AdvancesOrEnds s t := by
  obtain ⟨c, u, -, hu, rfl⟩ := execGenRamtab_next h
  obtain ⟨w, new, -, -, rfl⟩ := genRamtab_cases hu
  exact advancesOrEnds_of_next hh (by rw [hpc]; rfl)

/-- Settles O57, by the rows of the two programs. -/
theorem seqPcAdvances : Obligations.SeqPcAdvances := by
  intro s t m i hm hi h
  obtain ⟨m', i', hh, hm', hi', hexec⟩ := step_next h
  obtain rfl : m = m' := Option.some.inj (hm.symm.trans hm')
  obtain rfl : i = i' := Option.some.inj (hi.symm.trans hi')
  have of_advances : AdvancesOrEnds s t → (t.halted = true → t.seqPc = s.seqPc) ∧
      (t.halted = false → (∀ k, i ≠ .btone2 k) → (∀ k, i ≠ .jmp k) → t.seqPc = s.seqPc + 1) :=
    fun ⟨hend, hnext⟩ => ⟨hend, fun hgo _ _ => hnext hgo⟩
  rcases program_row_cases hi with ⟨r, hr⟩ | ⟨ms, rfl⟩ | ⟨hpc, rfl⟩ | ⟨hpc, rfl⟩ | ⟨hpc, rfl⟩ | ⟨k, rfl⟩ | ⟨k, rfl⟩ |
    ⟨c, rfl⟩
  · exact of_advances (registerWrite_advances hr hh hexec)
  · cases hexec
    exact of_advances (advancesOrEnds_of_next (by simp [hh]) (by simp))
  · exact of_advances (execValidate_advances hpc hh hexec)
  · cases hexec
    rw [initPins_eq] at of_advances ⊢
    exact of_advances (advancesOrEnds_of_next hh (by rw [hpc]; rfl))
  · exact of_advances (execGenRamtab_advances hpc hh hexec)
  · obtain ⟨hz, -, ⟨-, rfl⟩ | ⟨-, rfl⟩⟩ := execBtone2_next hexec
    · exact ⟨fun hend => (by rw [hh] at hend; cases hend), fun _ hb _ => absurd rfl (hb k)⟩
    · exact of_advances (advancesOrEnds_of_end rfl rfl)
  · cases hexec
    exact ⟨fun hend => (by rw [hh] at hend; cases hend), fun _ _ hj => absurd rfl (hj k)⟩
  · cases hexec
    exact of_advances (advancesOrEnds_of_end rfl rfl)

end Sys2Proof.Machine
end

section
/-! SUPPORT. Verbose tracing (10_state.md R26, 60_exceptions.md R318) as a simulation: two states that differ in DEBUG and in
`Trace` records only are led by every operation to two such states again, or refused both. -/

namespace Sys2Proof.Machine

/-! ## The relation -/

/-- The records of a log that are not of verbose tracing. -/
def plainRecords (l : List Event) : List Event := l.filter (fun e => !e.isVerbose)

theorem plainRecords_append (es l : List Event) : plainRecords (es ++ l) = plainRecords es ++ plainRecords l :=
  List.filter_append ..

/-- `t` runs with DEBUG 1 what `u` runs with DEBUG 0: the same state but for DEBUG and the `Trace` records. -/
def VerboseTwin (u t : State) : Prop :=
  u.debug = some false ∧ ∃ l, t = { u with log := l, debug := some true } ∧ plainRecords l = plainRecords u.log

theorem VerboseTwin.sameButVerbose {u t : State} (h : VerboseTwin u t) : u.sameButVerbose t := by
  obtain ⟨-, l, rfl, hl⟩ := h
  refine ⟨rfl, ?_⟩
  simp only [State.trace, List.filter_reverse]
  exact congrArg List.reverse hl

theorem verboseTwin_setDebug (s : State) :
    VerboseTwin { s with debug := some false } { s with debug := some true } := ⟨rfl, s.log, rfl, rfl⟩

/-- `f` reads neither TRACE nor DEBUG, keeps DEBUG, and appends the records `es`. -/
def BlindTo (es : List Event) (f : State → State) : Prop :=
  ∀ (s : State) (l : List Event) (d : Option Bool),
    f { s with log := l, debug := d } = { f s with log := es ++ l, debug := d }

/-- An operation that reads neither TRACE nor DEBUG keeps the twins. -/
theorem VerboseTwin.map {u t : State} (h : VerboseTwin u t) {es : List Event} {f : State → State} (hf : BlindTo es f) :
    VerboseTwin (f u) (f t) := by
  obtain ⟨hd, l, rfl, hl⟩ := h
  have hu : f u = { f u with log := es ++ u.log, debug := u.debug } := hf u u.log u.debug
  refine ⟨(congrArg State.debug hu).trans hd, es ++ l, hf u l (some true), ?_⟩
  have hlog : (f u).log = es ++ u.log := congrArg State.log hu
  rw [hlog, plainRecords_append, plainRecords_append, hl]

/-- A verbose record on the verbose side only keeps the twins. -/
theorem VerboseTwin.verboseTrace {u t : State} (h : VerboseTwin u t) : VerboseTwin u t.verboseTrace := by
  obtain ⟨hd, l, rfl, hl⟩ := h
  exact ⟨hd, _ :: l, rfl, hl⟩

/-- Two results of one operation on twins: both answer twins, or both are refused for the same reason. -/
inductive TwinResults : Except Reason State → Except Reason State → Prop where
  | ok {u t : State} (h : VerboseTwin u t) : TwinResults (.ok u) (.ok t)
  | error (e : Reason) : TwinResults (.error e) (.error e)

/-- Two outcomes of one operation on twins: both go on, to twins, or both are refused. -/
inductive TwinOutcomes : Host.Outcome State Fault Refusal → Host.Outcome State Fault Refusal → Prop where
  | next {u t : State} (h : VerboseTwin u t) : TwinOutcomes (.next u) (.next t)
  | refused (r r' : Refusal) : TwinOutcomes (.refused r) (.refused r')

theorem TwinResults.finish {a b : Except Reason State} (h : TwinResults a b) (u t : State) :
    TwinOutcomes (finish u a) (finish t b) := by
  cases h with
  | ok h => exact .next h
  | error e => exact .refused _ _

theorem TwinResults.bind {a b : Except Reason State} (h : TwinResults a b) {f g : State → Except Reason State}
    (hfg : ∀ u t, VerboseTwin u t → TwinResults (f u) (g t)) : TwinResults (a >>= f) (b >>= g) := by
  cases h with
  | ok h => exact hfg _ _ h
  | error e => exact .error e

/-- A read of a register that both twins hold alike. -/
theorem TwinResults.read {α : Type} (x : Except Reason α) {f g : α → Except Reason State}
    (hfg : ∀ a, TwinResults (f a) (g a)) : TwinResults (x >>= f) (x >>= g) := by
  cases x with
  | ok a => exact hfg a
  | error e => exact .error e

theorem TwinOutcomes.quiet_of_verbose {a b : Host.Outcome State Fault Refusal} {t : State} (h : TwinOutcomes a b)
    (hb : b = .next t) : ∃ u, a = .next u ∧ u.sameButVerbose t := by
  cases h with
  | refused r r' => cases hb
  | next h => cases hb; exact ⟨_, rfl, h.sameButVerbose⟩

theorem TwinOutcomes.verbose_of_quiet {a b : Host.Outcome State Fault Refusal} {u : State} (h : TwinOutcomes a b)
    (ha : a = .next u) : ∃ t, b = .next t ∧ u.sameButVerbose t := by
  cases h with
  | refused r r' => cases ha
  | next h => cases ha; exact ⟨_, rfl, h.sameButVerbose⟩

/-! ## What the twins hold alike -/

section
variable {u t : State} (h : VerboseTwin u t)
include h

theorem VerboseTwin.pins : t.pins = u.pins := by obtain ⟨-, l, rfl, -⟩ := h; rfl
theorem VerboseTwin.halted : t.halted = u.halted := by obtain ⟨-, l, rfl, -⟩ := h; rfl
theorem VerboseTwin.freeCount : t.freeCount = u.freeCount := by obtain ⟨-, l, rfl, -⟩ := h; rfl
theorem VerboseTwin.readMode : t.readMode = u.readMode := by obtain ⟨-, l, rfl, -⟩ := h; rfl
theorem VerboseTwin.readFreq : t.readFreq = u.readFreq := by obtain ⟨-, l, rfl, -⟩ := h; rfl
theorem VerboseTwin.readTone2 : t.readTone2 = u.readTone2 := by obtain ⟨-, l, rfl, -⟩ := h; rfl
theorem VerboseTwin.readTone (r : ToneReg) : t.readTone r = u.readTone r := by
  obtain ⟨-, l, rfl, -⟩ := h
  cases r <;> rfl
theorem VerboseTwin.readLevel : t.readLevel = u.readLevel := by obtain ⟨-, l, rfl, -⟩ := h; rfl
theorem VerboseTwin.readAsfRaw : t.readAsfRaw = u.readAsfRaw := by obtain ⟨-, l, rfl, -⟩ := h; rfl
theorem VerboseTwin.readFtwbuf : t.readFtwbuf = u.readFtwbuf := by obtain ⟨-, l, rfl, -⟩ := h; rfl
theorem VerboseTwin.readAsfbuf : t.readAsfbuf = u.readAsfbuf := by obtain ⟨-, l, rfl, -⟩ := h; rfl
theorem VerboseTwin.readRscwbuf : t.readRscwbuf = u.readRscwbuf := by obtain ⟨-, l, rfl, -⟩ := h; rfl
theorem VerboseTwin.readCarrier (k : Carrier) : t.readCarrier k = u.readCarrier k := by
  obtain ⟨-, l, rfl, -⟩ := h
  cases k <;> rfl
theorem VerboseTwin.ramRead (a n : ℕ) : t.ramRead a n = u.ramRead a n := by obtain ⟨-, l, rfl, -⟩ := h; rfl

end

/-! ## Operations that read neither TRACE nor DEBUG -/

theorem blind_setPc (pc : StepIndex) : BlindTo [] (fun s => { s with seqPc := pc }) := fun _ _ _ => rfl
theorem blind_advance : BlindTo [] State.advance := fun _ _ _ => rfl
theorem blind_withWord (f : ℚ) : BlindTo [] (fun s => s.withWord f) := fun _ _ _ => rfl
theorem blind_withRate (hz : ℚ) : BlindTo [] (fun s => s.withRate hz) := fun _ _ _ => rfl
theorem blind_storeAsf (raw : ℕ) : BlindTo [] (storeAsf raw) := fun _ _ _ => rfl
theorem blind_setRambuf (a : ℕ) (v : List Byte) :
    BlindTo [] (fun s => { s with rambuf := memSetBytes s.rambuf a v }) := fun _ _ _ => rfl
theorem blind_emitWarning : BlindTo [.diag .freqHigh] emitWarning := fun _ _ _ => rfl
theorem blind_raiseFatal (c : FatalCause) : BlindTo [.exit 1, .diag (.fatal c)] (raiseFatal c) := fun _ _ _ => rfl
theorem blind_exitRun (code : ℕ) : BlindTo [.exit code] (exitRun code) := fun _ _ _ => rfl
theorem blind_perform (e : Event) : BlindTo [e] (fun s => s.perform e) := fun _ _ _ => rfl

theorem blind_convertLevel (l : LevelRequest) : BlindTo [] (convertLevel params l) := by
  intro s m d
  simp only [convertLevel_raw, List.nil_append]

theorem blind_pause (ms : ℕ) : BlindTo (pauseEvents ms) (fun s => s.pause ms) := by
  intro s l d
  unfold State.pause pauseEvents
  split <;> rfl

theorem blind_shiftByte (b : Byte) : BlindTo (byteEvents b).reverse (shiftByte b) := by
  intro s l d
  simp only [shiftByte_eq]

theorem blind_strobe (c : Config) : BlindTo (strobeEvents c).reverse (strobe c) := by
  intro s l d
  simp only [strobe_eq]

theorem blind_afterXfer (c : Config) (i : Byte) (d : List Byte) :
    BlindTo (frameEvents c i d).reverse (afterXfer c i d) := by
  intro s l db
  simp only [afterXfer, State.releaseTransport]

theorem blind_initPins : BlindTo initEvents.reverse (initPins params) := by
  intro s l d
  simp only [initPins_eq]

/-! ## The operations on twins -/

theorem sendFrame_twin (c : Config) (i : Byte) (d : List Byte) {u t : State} (h : VerboseTwin u t) :
    TwinResults (sendFrame c i d u) (sendFrame c i d t) := by
  cases ha : u.pins.allOut with
  | true =>
    rw [sendFrame_of_allOut c i d ha, sendFrame_of_allOut c i d (h.pins ▸ ha)]
    exact .ok ((h.map (blind_afterXfer c i d)).map blind_advance)
  | false =>
    unfold sendFrame
    rw [xfer_of_not_allOut c i d u ha, xfer_of_not_allOut c i d t (h.pins ▸ ha)]
    exact .error _

theorem xfer_twin (c : Config) (i : Byte) (d : List Byte) {u t : State} (h : VerboseTwin u t) :
    TwinResults (xfer c i d u) (xfer c i d t) := by
  cases ha : u.pins.allOut with
  | true =>
    rw [xfer_of_allOut c i d u ha, xfer_of_allOut c i d t (h.pins ▸ ha)]
    exact .ok (h.map (blind_afterXfer c i d))
  | false =>
    rw [xfer_of_not_allOut c i d u ha, xfer_of_not_allOut c i d t (h.pins ▸ ha)]
    exact .error _

/-- ENC_FTW, the one operation that reads DEBUG (40_codecs.md R127): the verbose side appends its record. -/
theorem encFtw_twin (f : ℚ) {u t : State} (h : VerboseTwin u t) : TwinResults (encFtw params f u) (encFtw params f t) := by
  obtain ⟨hd, l, ht, -⟩ := id h
  have hd' : t.debug = some true := by rw [ht]
  by_cases h0 : 0 ≤ f
  · by_cases h1 : wordOf f < 2 ^ 32
    · rw [encFtw_quiet hd h0 h1, encFtw_verbose hd' h0 h1]
      exact .ok (h.map (blind_withWord f)).verboseTrace
    · rw [encFtw_overflow u (not_lt.mp h1), encFtw_overflow t (not_lt.mp h1)]
      exact .error _
  · rw [encFtw_negative u (not_le.mp h0), encFtw_negative t (not_le.mp h0)]
    exact .error _

theorem genRscw_twin (hz : ℚ) {u t : State} (h : VerboseTwin u t) :
    TwinResults (genRscw params hz u) (genRscw params hz t) := by
  by_cases h0 : 0 ≤ hz
  · by_cases ha : toneAdmitted hz
    · rw [genRscw_admitted u ha, genRscw_admitted t ha]
      exact .ok (h.map (blind_withRate hz))
    · rw [genRscw_overflow u h0 ha, genRscw_overflow t h0 ha]
      exact .error _
  · rw [genRscw_negative u (not_le.mp h0), genRscw_negative t (not_le.mp h0)]
    exact .error _

theorem chkAsf_twin {u t : State} (h : VerboseTwin u t) : TwinResults (chkAsf params u) (chkAsf params t) := by
  unfold chkAsf
  rw [h.readAsfRaw]
  cases u.readAsfRaw with
  | error e => exact .error e
  | ok raw =>
    dsimp only
    split
    · exact .ok (h.map (blind_raiseFatal .ampRange))
    · exact .ok (h.map (blind_storeAsf raw))

theorem ramWrite_twin (a : ℕ) (v : List Byte) {u t : State} (h : VerboseTwin u t) :
    TwinResults (u.ramWrite a v) (t.ramWrite a v) := by
  unfold State.ramWrite
  split
  · exact .error _
  · exact .ok (h.map (blind_setRambuf a v))

theorem ramtabEntry_twin (c : ℚ) (i : ℕ) {u t : State} (h : VerboseTwin u t) :
    TwinResults (ramtabEntry params c u i) (ramtabEntry params c t i) := by
  unfold ramtabEntry
  refine .read _ fun o => (encFtw_twin (c + o) h).bind fun u' t' h' => ?_
  rw [h'.readFtwbuf]
  exact .read _ fun w => ramWrite_twin _ _ h'

theorem genRamtab_twin (c : ℚ) {u t : State} (h : VerboseTwin u t) :
    TwinResults (genRamtab params c u) (genRamtab params c t) := by
  unfold genRamtab
  generalize List.range params.nTab = slots
  induction slots generalizing u t with
  | nil => exact .ok h
  | cons i rest ih =>
    simp only [List.foldlM_cons]
    exact (ramtabEntry_twin c i h).bind fun u' t' h' => ih h'

theorem maybeWarnDiag_twin (f : ℚ) {u t : State} (h : VerboseTwin u t) :
    VerboseTwin (maybeWarnDiag params f u) (maybeWarnDiag params f t) := by
  unfold maybeWarnDiag
  rw [h.freeCount]
  split
  · exact h.map (blind_perform _)
  · exact h

theorem raiseSome_twin (first : FatalCause) (others : List FatalCause) {u t : State} (h : VerboseTwin u t) :
    VerboseTwin (raiseSome first others u) (raiseSome first others t) := by
  unfold raiseSome
  cases others with
  | nil => exact h.map (blind_raiseFatal first)
  | cons second rest =>
    dsimp only
    rw [h.freeCount]
    exact h.map (blind_raiseFatal _)

theorem validate_twin {u t : State} (h : VerboseTwin u t) : TwinResults (validate params u) (validate params t) := by
  unfold validate
  rw [h.readLevel]
  refine .read _ fun l => ?_
  have hl := h.map (blind_convertLevel l)
  dsimp only
  rw [hl.readFreq, hl.readAsfRaw]
  refine .read _ fun f => .read _ fun raw => ?_
  cases fatalCauses params f raw with
  | cons first others => exact .ok (raiseSome_twin first others (maybeWarnDiag_twin f hl))
  | nil =>
    have hwarn : VerboseTwin (if params.freqWarn < f then emitWarning (convertLevel params l u) else convertLevel params l u)
        (if params.freqWarn < f then emitWarning (convertLevel params l t) else convertLevel params l t) := by
      split
      · exact hl.map blind_emitWarning
      · exact hl
    exact (chkAsf_twin hwarn).bind fun u' t' h' => .ok (h'.map (blind_setPc 1))

theorem btone2_twin (k : StepIndex) {u t : State} (h : VerboseTwin u t) : TwinResults (btone2 k u) (btone2 k t) := by
  unfold btone2
  rw [h.readTone2]
  refine .read _ fun hz => .ok ?_
  split
  · exact h.map (blind_setPc k)
  · exact h.map (blind_exitRun 0)

/-! ## Every operation -/

theorem operation_twin (i : Instr) (hi : isMacro i = false) {u t : State} (h : VerboseTwin u t) :
    TwinOutcomes (exec i u) (exec i t) := by
  cases i with
  | wrCfr1 =>
    refine TwinResults.finish ?_ u t
    unfold wrCfr1
    rw [h.readMode]
    exact .read _ fun m => sendFrame_twin _ _ _ h
  | wrArr => exact (sendFrame_twin _ _ _ h).finish u t
  | wrCfr2 => exact (sendFrame_twin _ _ _ h).finish u t
  | wrAsf =>
    refine TwinResults.finish ?_ u t
    unfold wrAsf
    rw [h.readAsfbuf]
    exact .read _ fun b => sendFrame_twin _ _ _ h
  | wrFtw0 =>
    refine TwinResults.finish ?_ u t
    unfold wrFtw0
    rw [h.readFreq]
    refine .read _ fun f => (encFtw_twin f h).bind fun u' t' h' => ?_
    rw [h'.readFtwbuf]
    exact .read _ fun b => sendFrame_twin _ _ _ h'
  | wrRam =>
    refine TwinResults.finish ?_ u t
    unfold wrRam
    rw [h.ramRead]
    exact .read _ fun bs => sendFrame_twin _ _ _ h
  | wrRscw r =>
    refine TwinResults.finish ?_ u t
    unfold wrRscw
    rw [h.readTone]
    refine .read _ fun hz => (genRscw_twin hz h).bind fun u' t' h' => ?_
    rw [h'.readRscwbuf]
    exact .read _ fun b => sendFrame_twin _ _ _ h'
  | encFtw f => exact (encFtw_twin f h).finish u t
  | encAsfRel d => exact .next (h.map (blind_convertLevel (.rel d)))
  | encAsfDbm p => exact .next (h.map (blind_convertLevel (.dbm p)))
  | encAsfInt n => exact .next (h.map (blind_convertLevel (.int n)))
  | chkAsf => exact (chkAsf_twin h).finish u t
  | genRscw hz => exact (genRscw_twin hz h).finish u t
  | genRamtab k =>
    refine TwinResults.finish ?_ u t
    rw [h.readCarrier]
    exact .read _ fun c => (genRamtab_twin c h).bind fun u' t' h' => .ok (h'.map (blind_setPc 7))
  | xfer b d => exact (xfer_twin params b d h).finish u t
  | shiftByte b => exact .next (h.map (blind_shiftByte b))
  | strobe => exact .next (h.map (blind_strobe params))
  | validate => exact (validate_twin h).finish u t
  | init => exact .next (h.map blind_initPins)
  | btone2 k => exact (btone2_twin k h).finish u t
  | sleep ms => exact .next ((h.map (blind_pause ms)).map blind_advance)
  | jmp k => exact .next (h.map (blind_setPc k))
  | exit code => exact .next (h.map (blind_exitRun code))
  | progSf | progFm => cases hi

theorem runRows_twin {rows : List Instr} (hrows : ∀ i ∈ rows, isMacro i = false) {u t : State} (h : VerboseTwin u t) :
    TwinOutcomes (runRows (rows.map exec) u) (runRows (rows.map exec) t) := by
  induction rows generalizing u t with
  | nil => exact .next h
  | cons i rest ih =>
    have hfirst := operation_twin i (hrows i (by simp)) h
    simp only [List.map_cons, runRows]
    generalize exec i u = a at hfirst ⊢
    generalize exec i t = b at hfirst ⊢
    cases hfirst with
    | refused r r' => exact .refused r r'
    | next h' =>
      dsimp only
      rw [h'.halted]
      split
      · exact .next h'
      · exact ih (fun j hj => hrows j (by simp [hj])) h'

/-- Every operation leads twins to twins, or is refused on both. -/
theorem exec_twin (i : Instr) {u t : State} (h : VerboseTwin u t) : TwinOutcomes (exec i u) (exec i t) := by
  cases hi : isMacro i with
  | false => exact operation_twin i hi h
  | true =>
    cases i with
    | progSf => exact runRows_twin sfRowInstrs_isMacro (h.map (blind_setPc 0))
    | progFm => exact runRows_twin fmRowInstrs_isMacro (h.map (blind_setPc 0))
    | _ => cases hi

/-- Settles O58, by the simulation `exec_twin` from the two states that differ in DEBUG only. -/
theorem debugChangesOnlyTraceRecords : Obligations.DebugChangesOnlyTraceRecords := by
  intro i s
  have htwin := exec_twin i (verboseTwin_setDebug s)
  exact ⟨fun t ht => htwin.quiet_of_verbose ht, fun u hu => htwin.verbose_of_quiet hu⟩

end Sys2Proof.Machine
end

section
/-! SUPPORT. Reads of a register that holds no value (10_state.md R43): how such a read refuses the operation around it. -/

namespace Sys2Proof.Machine

/-! ## Refusals in general -/

/-- The ended state of a refused operation is the one it began in but for HALTED and EXIT_CODE (R31, R33). -/
theorem finish_unloaded {s : State} {r : RegName} {x : Except Reason State} (h : x = .error (.unloadedRegister r)) :
    finish s x = .refused (.unloadedRegister r { s with halted := true, exitCode := none }) := by
  rw [h]; rfl

theorem error_bind {α β : Type} {x : Except Reason α} {e : Reason} (h : x = .error e) (f : α → Except Reason β) :
    x >>= f = .error e := by
  rw [h]; rfl

theorem readReg_none {α : Type} {v : Option α} (r : RegName) (h : v = none) : readReg r v = .error (.unloadedRegister r) := by
  rw [h]; rfl

theorem readReg_some {α : Type} {v : Option α} {x : α} (r : RegName) (h : v = some x) : readReg r v = .ok x := by
  rw [h]; rfl

/-- An operation whose first act is to read a register that holds no value. -/
theorem finish_read_none {α : Type} {s : State} {v : Option α} (r : RegName) (h : v = none)
    (f : α → Except Reason State) :
    finish s (readReg r v >>= f) = .refused (.unloadedRegister r { s with halted := true, exitCode := none }) :=
  finish_unloaded (error_bind (readReg_none r h) f)

/-! ## RAMBUF -/

/-- A read of RAMBUF over a byte that holds no value. -/
theorem memGetBytes_hole {m : List Host.Cell} {a : ℕ} (hole : memGet m a = none) (n : ℕ) {b : ℕ} (hb : b ≤ a)
    (ha : a < b + n) : memGetBytes m b n = .error (.unloadedRegister .rambuf) := by
  induction n generalizing b with
  | zero => omega
  | succ k ih =>
    unfold memGetBytes
    cases hget : memGet m b with
    | none => rfl
    | some v =>
      have hne : b ≠ a := fun hba => by rw [hba, hole] at hget; cases hget
      rw [ih (b := b + 1) (by omega) (by omega)]
      rfl

theorem ramRead_hole {s : State} {a : ℕ} (ha : a < 400) (hole : memGet s.rambuf a = none) :
    s.ramRead 0 params.lenRam = .error (.unloadedRegister .rambuf) := by
  have hrange : ¬ rambufSize < 0 + params.lenRam := by decide
  have hlt : a < 0 + params.lenRam := by rw [Nat.zero_add]; exact ha
  unfold State.ramRead
  rw [if_neg hrange, memGetBytes_hole hole params.lenRam (Nat.zero_le a) hlt]

/-! ## DEBUG, read last in ENC_FTW (40_codecs.md R127) -/

theorem encFtw_unloaded {s : State} {f : ℚ} (hd : s.debug = none) (h0 : 0 ≤ f) (h1 : wordOf f < 2 ^ 32) :
    encFtw params f s = .error (.unloadedRegister .debug) := by
  have hread : s.readDebug = .error (.unloadedRegister .debug) := readReg_none .debug hd
  rw [encFtw_domain s h0 h1, hread]

theorem wordOf_lt_of_lt_sysfreq {f : ℚ} (h : f < params.sysfreq) : wordOf f < 2 ^ 32 := by
  rw [wordOf, Int.floor_lt, div_lt_iff₀ sysfreq_pos]
  push_cast
  linarith

/-- The first slot of the table adds nothing to the carrier (41_tone_sweep.md R166), so it meets the unloaded DEBUG. -/
theorem genRamtab_unloaded {s : State} {c : ℚ} (hd : s.debug = none) (h0 : 0 ≤ c) (h1 : c < params.sysfreq) :
    genRamtab params c s = .error (.unloadedRegister .debug) := by
  have hrom : toneRomRead params 0 = .ok 0 := rfl
  have henc : encFtw params (c + (0 : ℤ)) s = .error (.unloadedRegister .debug) := by
    rw [Int.cast_zero, add_zero]
    exact encFtw_unloaded hd h0 (wordOf_lt_of_lt_sysfreq h1)
  have hfirst : ramtabEntry params c s 0 = .error (.unloadedRegister .debug) := by
    unfold ramtabEntry
    rw [hrom, ok_bind]
    exact error_bind henc _
  have hslots : List.range params.nTab = 0 :: (List.range 99).map Nat.succ := List.range_succ_eq_map ..
  rw [genRamtab, hslots, List.foldlM_cons]
  exact error_bind hfirst _

theorem readCarrier_ok {k : Carrier} {s : State} {c : ℚ} (h : k = .value c ∨ (k = .freq ∧ s.freq = some c)) :
    s.readCarrier k = .ok c := by
  rcases h with rfl | ⟨rfl, hf⟩
  · rfl
  · exact readReg_some .freq hf

/-! ## The operations that read a register after another step -/

/-- VALIDATE reads FREQ after the level has been converted (44_sequencer.md R252). -/
theorem validate_freq_unloaded {s : State} (hl : s.level ≠ none) (hf : s.freq = none) :
    validate params s = .error (.unloadedRegister .freq) := by
  obtain ⟨l, hl⟩ := Option.ne_none_iff_exists'.mp hl
  have hlevel : s.readLevel = .ok l := readReg_some .lvlKind hl
  have hfreq : (convertLevel params l s).readFreq = .error (.unloadedRegister .freq) := by
    rw [convertLevel_raw]
    exact readReg_none .freq hf
  unfold validate
  rw [hlevel, ok_bind]
  exact error_bind hfreq _

theorem chkAsf_unloaded {s : State} (h : s.asfRaw = none) : chkAsf params s = .error (.unloadedRegister .asfRaw) := by
  have hread : s.readAsfRaw = .error (.unloadedRegister .asfRaw) := readReg_none .asfRaw h
  unfold chkAsf
  rw [hread]

theorem wrFtw0_debug_unloaded {s : State} {f : ℚ} (hf : s.freq = some f) (hd : s.debug = none) (h0 : 0 ≤ f)
    (h1 : wordOf f < 2 ^ 32) : wrFtw0 params s = .error (.unloadedRegister .debug) := by
  have hfreq : s.readFreq = .ok f := readReg_some .freq hf
  unfold wrFtw0
  rw [hfreq, ok_bind]
  exact error_bind (encFtw_unloaded hd h0 h1) _

theorem execGenRamtab_debug_unloaded {s : State} {k : Carrier} {c : ℚ} (hd : s.debug = none)
    (hk : s.readCarrier k = .ok c) (h0 : 0 ≤ c) (h1 : c < params.sysfreq) :
    execGenRamtab k s = .refused (.unloadedRegister .debug { s with halted := true, exitCode := none }) := by
  unfold execGenRamtab
  rw [hk, ok_bind]
  exact finish_unloaded (error_bind (genRamtab_unloaded hd h0 h1) _)

/-- Settles O45, one operation after another in the order of the statement. -/
theorem unloadedRegistersRefused : Obligations.UnloadedRegistersRefused := by
  intro s
  refine ⟨fun h => finish_read_none .mode h _, fun h => finish_read_none .asfbuf h _,
    fun h => ⟨finish_read_none .freq h _, finish_read_none .freq h _⟩,
    fun a ha h => finish_unloaded (error_bind (ramRead_hole ha h) _),
    fun h => finish_read_none .tone1 h _,
    fun h => ⟨finish_read_none .tone2 h _, fun k => finish_read_none .tone2 h _⟩,
    fun h => finish_read_none .lvlKind h _, fun hl hf => finish_unloaded (validate_freq_unloaded hl hf),
    fun f hd h0 h1 => ⟨finish_unloaded (encFtw_unloaded hd h0 h1),
      fun hf => finish_unloaded (wrFtw0_debug_unloaded hf hd h0 h1)⟩,
    fun c k hd hk hlow hhigh => ?_, fun h => finish_unloaded (chkAsf_unloaded h)⟩
  exact execGenRamtab_debug_unloaded hd (readCarrier_ok hk) (by linarith) (by linarith)

end Sys2Proof.Machine
end

section
/-! SUPPORT. The fetch of a step (44_sequencer.md R251, 10_state.md R30), the placing of an operation, and the states before a
run: at reset (R42) and as the host loads it. -/

namespace Sys2Proof.Machine

/-! ## The program store -/

/-- Settles O5, by evaluating the table at its thirty-two slots. -/
theorem programListings : Obligations.ProgramListings := ⟨rfl, rfl⟩

theorem step_of_row {s : State} {m : Mode} {i : Instr} (hh : s.halted = false) (hm : s.mode = some m)
    (hi : program params m s.seqPc = some i) : step s = exec i s := by
  simp only [step, hh, hm, hi, Bool.false_eq_true, if_false]

theorem step_of_halted {s : State} (hh : s.halted = true) : step s = .fault .runOver := by
  simp only [step, hh, if_true]

theorem step_of_mode_unloaded {s : State} (hh : s.halted = false) (hm : s.mode = none) :
    step s = .refused ((Reason.unloadedRegister .mode).refusal s) := by
  simp only [step, hh, hm, Bool.false_eq_true, if_false]

theorem step_of_no_row {s : State} {m : Mode} (hh : s.halted = false) (hm : s.mode = some m)
    (hi : program params m s.seqPc = none) : step s = .fault .noStep := by
  simp only [step, hh, hm, hi, Bool.false_eq_true, if_false]

/-- Settles O7: the three tests of `step`, in its order. -/
theorem stepStops : Obligations.StepStops :=
  fun _ => ⟨step_of_halted, step_of_mode_unloaded, fun _ => step_of_no_row⟩

/-- What the decoder reads is the operation of a register (30_encoding.md R99). -/
theorem decode_ok_instr {c : Config} {bs : List Byte} {d : Decoded} (h : decode c bs = .ok d) :
    ∃ r : ChipReg, d.instr = r.instr := by
  cases bs with
  | nil => cases h
  | cons b rest =>
    cases hr : ChipReg.ofAddr c b with
    | none => simp only [decode, hr] at h; cases h
    | some r =>
      simp only [decode, hr] at h
      split at h
      · cases h
      · cases h
        exact ⟨r, rfl⟩

theorem decodeTableWord_instr {nbits w : ℕ} {i : Instr} (h : decodeTableWord nbits w = some i) :
    ∃ r : ChipReg, i = r.instr := by
  unfold decodeTableWord at h
  split at h
  · cases h
  · split at h
    · rename_i d hd
      obtain ⟨r, hr⟩ := decode_ok_instr hd
      exact ⟨r, by cases h; exact hr⟩
    · cases h

/-- Every register's operation stands at a row of a program (10_state.md R30). -/
theorem slotOf_chipReg (r : ChipReg) :
    ∃ m pc, slotOf params r.instr = some (m, pc) ∧ program params m pc = some r.instr := by
  cases r <;> exact ⟨_, _, rfl, rfl⟩

/-- Settles O8: the placed state selects the row at which the operation stands, and the step fetches it from there. -/
theorem placedWordIsRun : Obligations.PlacedWordIsRun := by
  intro s nbits w i hw
  obtain ⟨r, rfl⟩ := decodeTableWord_instr hw
  obtain ⟨m, pc, hslot, hrow⟩ := slotOf_chipReg r
  have hplaced : s.withFetchWord nbits w = { s with mode := some m, seqPc := pc, halted := false } := by
    simp only [State.withFetchWord, State.placeInstr, hw, hslot]
  rw [hplaced]
  exact ⟨step_of_row rfl rfl hrow, rfl⟩

/-! ## The states before a run -/

/-- Settles O9, register by register; the pins one by one. -/
theorem resetState : Obligations.ResetState := by
  refine ⟨⟨rfl, rfl, rfl, rfl, rfl, rfl, rfl⟩, ⟨rfl, rfl, rfl, rfl⟩, ⟨rfl, rfl, rfl, memGet_nil⟩, ⟨rfl, rfl, rfl, rfl⟩,
    rfl, rfl, rfl, rfl, fun p => ?_, rfl⟩
  cases p <;> exact ⟨rfl, rfl⟩

/-- Settles O10: the load of R101 with the defaults written out. -/
theorem hostLoadDefaults : Obligations.HostLoadDefaults := fun _ _ _ => rfl

/-- Settles O54: TRACE and RAMBUF are empty, and no register holds a value. -/
theorem resetMeetsInvariants : Obligations.ResetMeetsInvariants :=
  ⟨rfl, rfl, (buffersInv_iff _).mpr ⟨rfl, rfl, rfl⟩, (endInv_iff _).mpr (.inr ⟨rfl, by simp [State.reset]⟩)⟩

end Sys2Proof.Machine
end

section
/-! SUPPORT. The frame on the wire (42_transport.md R192) read back by the observer (20_memory.md R66): an XFER from a link that is
ready is one frame more in FRAMES (10_state.md R41), and the link is ready again. -/

namespace Sys2Proof.Machine

/-- The conjuncts of link-readiness, in the terms proofs use. -/
theorem linkReady_iff (s : State) :
    s.linkReady = true ↔ s.pins.allOut = true ∧ s.pins.sclk.level = .low ∧ s.pins.ioupdate.level = .low ∧
      s.pins = Pins.atReset.replay s.trace ∧ (observe params s.trace).idle = true := by
  simp only [State.linkReady, State.pinsFollowTrace, Bool.and_eq_true, beq_iff_eq, and_assoc]

/-- An XFER with all pins outputs is performed (R191, R192). -/
theorem exec_xfer_of_allOut (i : Byte) (d : List Byte) {s : State} (h : s.pins.allOut = true) :
    exec (.xfer i d) s = .next (afterXfer params i d s) :=
  congrArg (finish s) (xfer_of_allOut params i d s h)

/-- What the observer makes of an XFER from a ready link: the frame sent is committed, and only its pin levels change besides. -/
theorem observe_afterXfer (i : Byte) (d : List Byte) {s : State} (h : s.linkReady = true) :
    observe params (afterXfer params i d s).trace =
      { observe params s.trace with
        done := { instr := i, payload := d } :: (observe params s.trace).done
        pins := s.pins.replay (frameEvents params i d) } := by
  obtain ⟨-, hsclk, hio, hpins, hidle⟩ := (linkReady_iff s).mp h
  have hobs : (observe params s.trace).pins = s.pins := by rw [observe_pins, ← hpins]
  rw [afterXfer_trace, observe_append,
    replay_frameEvents params _ i d hidle (by rw [hobs]; exact hsclk) (by rw [hobs]; exact hio), hobs]

/-- FRAMES after an XFER from a ready link (R41). -/
theorem frames_afterXfer (i : Byte) (d : List Byte) {s : State} (h : s.linkReady = true) :
    (afterXfer params i d s).frames = s.frames ++ [{ instr := i, payload := d }] := by
  simp only [State.frames, framesOf, observe_afterXfer i d h, List.reverse_cons]

/-- An XFER keeps the link ready: the strobe leaves IOUPDATE low, the last clock pulse SCLK, and the observer between frames. -/
theorem linkReady_afterXfer (i : Byte) (d : List Byte) {s : State} (h : s.linkReady = true) :
    (afterXfer params i d s).linkReady = true := by
  obtain ⟨hout, -, -, hpins, hidle⟩ := (linkReady_iff s).mp h
  refine (linkReady_iff _).mpr ⟨?allOut, ?sclk, ?ioupdate, ?pins, ?idle⟩
  case allOut => rw [afterXfer_pins]; exact allOut_replay _ hout
  case sclk => rw [afterXfer_pins, replay_frame_pins]
  case ioupdate => rw [afterXfer_pins, replay_frame_pins]
  case pins => rw [afterXfer_pins, afterXfer_trace, replay_append, ← hpins]
  case idle => rw [observe_afterXfer i d h]; exact hidle

/-- Settles O31: the induction on the payload is `replay_payload`, inside `replay_frameEvents`. -/
theorem observerRecoversFrame : Obligations.ObserverRecoversFrame := by
  intro s i d h
  obtain ⟨hout, -⟩ := (linkReady_iff s).mp h
  exact ⟨afterXfer params i d s, exec_xfer_of_allOut i d hout, frames_afterXfer i d h, linkReady_afterXfer i d h⟩

end Sys2Proof.Machine
end

section
/-! SUPPORT. The opcode map (30_encoding.md R99) read both ways: which byte names which register, what the decoder makes of a
frame, and what it refuses. -/

namespace Sys2Proof.Machine

/-! ## Instruction bytes -/

theorem mem_chipRegs (r : ChipReg) : r ∈ ChipReg.all := by cases r <;> simp [ChipReg.all]

/-- With pairwise distinct instruction bytes the byte determines the register (R99). -/
theorem addr_injective {c : Config} (hc : c.addrsDistinct = true) : Function.Injective (ChipReg.addr c) :=
  fun q r heq => List.inj_on_of_nodup_map (of_decide_eq_true hc) (mem_chipRegs q) (mem_chipRegs r) heq

theorem ofAddr_some {c : Config} {b : Byte} {r : ChipReg} (h : ChipReg.ofAddr c b = some r) : r.addr c = b :=
  beq_iff_eq.mp (List.find?_some (p := fun q => ChipReg.addr c q == b) h)

theorem ofAddr_eq_none {c : Config} {b : Byte} : ChipReg.ofAddr c b = none ↔ ∀ r : ChipReg, r.addr c ≠ b := by
  simp only [ChipReg.ofAddr, List.find?_eq_none, beq_iff_eq, mem_chipRegs, forall_const, ne_eq]

/-- Reading a register's own byte (R91). -/
theorem ofAddr_addr {c : Config} (hc : c.addrsDistinct = true) (r : ChipReg) :
    ChipReg.ofAddr c (r.addr c) = some r := by
  cases hq : ChipReg.ofAddr c (r.addr c) with
  | none => exact absurd rfl (ofAddr_eq_none.mp hq r)
  | some q => exact congrArg some (addr_injective hc (ofAddr_some hq))

/-! ## The decoder, case by case -/

theorem decode_unknown {c : Config} {b : Byte} (h : ChipReg.ofAddr c b = none) (bs : List Byte) :
    decode c (b :: bs) = .error (.unknownInstructionByte b) := by
  simp only [decode, h]

theorem decode_register {c : Config} {b : Byte} {r : ChipReg} {bs : List Byte} (h : ChipReg.ofAddr c b = some r)
    (hlen : r.len c ≤ bs.length) :
    decode c (b :: bs) = .ok { instr := r.instr, payload := bs.take (r.len c), rest := bs.drop (r.len c) } := by
  simp only [decode, h, if_neg (Nat.not_lt.mpr hlen)]

/-- The fixed length separates the payload from what follows (R98). -/
theorem decode_encodeFrame {c : Config} (hc : c.addrsDistinct = true) {r : ChipReg} {payload : List Byte}
    (hfits : r.payloadFits c payload = true) (rest : List Byte) :
    decode c (encodeFrame c r payload ++ rest) = .ok { instr := r.instr, payload := payload, rest := rest } := by
  have hlen : payload.length = r.len c := beq_iff_eq.mp hfits
  have hfound : r.len c ≤ (payload ++ rest).length := by rw [List.length_append]; omega
  rw [encodeFrame, List.cons_append, decode_register (ofAddr_addr hc r) hfound, List.take_left' hlen,
    List.drop_left' hlen]

/-- Settles O3: the byte names its register only, and the register's length is the payload's. -/
theorem decodeEncodeFrame : Obligations.DecodeEncodeFrame :=
  fun _ _ _ rest hc hfits => decode_encodeFrame hc hfits rest

/-! ## Operations and their words, at the default bytes -/

theorem params_addrsDistinct : params.addrsDistinct = true := by decide

/-- What the map keeps of a register write is the operation of its register (R99, log entry 16). -/
theorem instr_of_chipReg? {i : Instr} {r : ChipReg} (h : i.chipReg? = some r) : r.instr = i.onWire := by
  cases i <;> cases h <;> rfl

/-- Settles O4: the round trip of frames, read for the operation a frame belongs to. -/
theorem decodeEncodeInstr : Obligations.DecodeEncodeInstr := by
  refine fun i payload => ⟨fun r hr hfits => ⟨encodeFrame params r payload, ?words, ?roundTrip⟩, fun hr => ?noWords,
    fun b bs hb => decode_unknown (ofAddr_eq_none.mpr hb) bs⟩
  case words => rw [encode, hr, Option.map_some]
  case roundTrip =>
    have hdecode := decode_encodeFrame params_addrsDistinct hfits []
    rwa [List.append_nil, instr_of_chipReg? hr] at hdecode
  case noWords => rw [encode, hr, Option.map_none]

/-! ## Single instruction bytes -/

/-- No register's payload is longer than the table's (10_state.md R35). -/
theorem len_le_lenRam (r : ChipReg) : r.len params ≤ params.lenRam := by cases r <;> decide

theorem byteOfNat_zero (b : Byte) : byteOfNat (b.toNat % 2 ^ 8) 0 = b := by
  rw [byteOfNat, Nat.mul_zero, Nat.shiftRight_zero, Nat.mod_eq_of_lt b.isLt, BitVec.ofNat_toNat, BitVec.setWidth_eq]

/-- A single byte reads as the operation of the register it names: zeros stand for any payload. -/
theorem decodeTableWord_byte (b : Byte) :
    decodeTableWord 8 b.toNat = (ChipReg.ofAddr params b).map ChipReg.instr := by
  have hbytes : (List.range (1 + params.lenRam)).map (byteOfNat (b.toNat % 2 ^ 8)) =
      b :: (List.range params.lenRam).map (fun k => byteOfNat (b.toNat % 2 ^ 8) (k + 1)) := by
    rw [Nat.add_comm, List.range_succ_eq_map, List.map_cons, byteOfNat_zero, List.map_map]
    rfl
  unfold decodeTableWord
  rw [if_neg (by decide), hbytes]
  cases hb : ChipReg.ofAddr params b with
  | none => rw [decode_unknown hb]; rfl
  | some r => rw [decode_register hb (by simpa using len_le_lenRam r)]; rfl

theorem decodeTableWord_addr (r : ChipReg) : decodeTableWord 8 (r.addr params).toNat = some r.instr := by
  rw [decodeTableWord_byte, ofAddr_addr params_addrsDistinct, Option.map_some]

theorem decodeTableWord_unknown {b : Byte} (h : ∀ r : ChipReg, r.addr params ≠ b) :
    decodeTableWord 8 b.toNat = none := by
  rw [decodeTableWord_byte, ofAddr_eq_none.mpr h, Option.map_none]

/-- Settles O1: five of the seven bytes, and one that no register has. -/
theorem tableBytesDecode : Obligations.TableBytesDecode :=
  ⟨decodeTableWord_addr .ram, decodeTableWord_addr .cfr1, decodeTableWord_addr .asf, decodeTableWord_addr .ftw0,
    decodeTableWord_addr .rscw, decodeTableWord_unknown (b := 0x05) (by intro r; cases r <;> decide)⟩

end Sys2Proof.Machine
end

section
/-! SUPPORT. The default configuration is well formed (70_reset_and_hazards.md R334); the part that is about real numbers is the
tone table against the sine (41_tone_sweep.md R167). -/

namespace Sys2Proof.Machine

/-- The check of `toneTable_near_rotation` at one entry, in real numbers. -/
theorem toneTable_entry_near_rotation {i : ℕ} {o : ℤ} (h : params.toneTable[i]? = some o) :
    |(o : ℝ) - 2500 * ((rotation i).2 / 10 ^ (10 * i))| ≤ 0.4632 := by
  have hmem : (o, i) ∈ toneTableDefault.zipIdx := List.mk_mem_zipIdx_iff_getElem?.mpr h
  have hint : 10000 * |o * 10 ^ (10 * i) - 2500 * (rotation i).2| ≤ 4632 * 10 ^ (10 * i) :=
    of_decide_eq_true (List.all_eq_true.mp toneTable_near_rotation _ hmem)
  have hreal : 10000 * |(o : ℝ) * 10 ^ (10 * i) - 2500 * (rotation i).2| ≤ 4632 * 10 ^ (10 * i) := by exact_mod_cast hint
  have hscale : (0 : ℝ) < 10 ^ (10 * i) := by positivity
  have hdiv : (o : ℝ) - 2500 * ((rotation i).2 / 10 ^ (10 * i)) =
      (o * 10 ^ (10 * i) - 2500 * (rotation i).2) / 10 ^ (10 * i) := by field_simp
  rw [hdiv, abs_div, abs_of_pos hscale, div_le_iff₀ hscale]
  linarith

/-- Every entry is 2500 times the sine at its hundredth of a turn, but for less than half a unit (41_tone_sweep.md R166). -/
theorem toneTable_near_sine {i : ℕ} {o : ℤ} (h : params.toneTable[i]? = some o) :
    |(o : ℝ) - 2500 * Real.sin (2 * Real.pi * i / 100)| ≤ 0.464 := by
  have hlt : i < 100 := (List.getElem?_eq_some_iff.mp h).1
  have hi : (i : ℝ) ≤ 100 := by exact_mod_cast hlt.le
  have hrot := abs_le.mp (toneTable_entry_near_rotation h)
  have hsin := abs_le.mp (sin_close i)
  exact abs_le.mpr ⟨by linarith, by linarith⟩

/-- One cycle in a hundred steps from phase 0, the last sample not repeating the first. -/
theorem params_toneTableSamplesSine : params.toneTableSamplesSine := by
  refine ⟨0, 100, .inl rfl, fun i o h => ?_⟩
  have hnear := toneTable_near_sine h
  have hpeak : (params.tonePeak : ℝ) = 2500 := by norm_num [params]
  rw [hpeak, zero_add]
  push_cast
  linarith

theorem params_lengthsAgree : params.lengthsAgree = true := rfl

theorem params_ramEnableIsOneBit : params.ramEnableIsOneBit = true := by decide

theorem params_cfr1FlagsSet : params.cfr1FlagsSet = true := by decide

theorem params_toneTableInRange : params.toneTableInRange = true := by decide

theorem params_numbersFit : params.numbersFit = true := by decide

/-- Settles O2, condition by condition. -/
theorem paramsWellFormed : Obligations.ParamsWellFormed :=
  ⟨params_addrsDistinct, params_addrsDistinct, params_lengthsAgree, params_ramEnableIsOneBit, params_cfr1FlagsSet,
    ⟨params_toneTableInRange, params_toneTableSamplesSine⟩, params_numbersFit⟩

end Sys2Proof.Machine
end

section
/-! SUPPORT. The macros PROG_SF and PROG_FM (30_encoding.md R102) against the steps of the sequencer: where each row goes on, and
that a list of rows in that order answers what as many steps answer. -/

namespace Sys2Proof.Machine

/-! ## Runs of steps -/

theorem runToHalt_of_halted {s : State} (hh : s.halted = true) (n : ℕ) : runToHalt n s = .next s := by
  cases n with
  | zero => rfl
  | succ k => simp only [runToHalt, hh, if_true]

theorem runToHalt_of_next {s t : State} (hh : s.halted = false) (h : step s = .next t) (n : ℕ) :
    runToHalt (n + 1) s = runToHalt n t := by
  simp only [runToHalt, hh, h, Bool.false_eq_true, if_false]

/-! ## Where a row goes on -/

/-- The row after a row that does not end the run: the one BTONE2 and JMP name, else the next (10_state.md R31). -/
def rowAfter (pc : StepIndex) : Instr → StepIndex
  | .btone2 k | .jmp k => k
  | _ => pc + 1

/-- A step that does not end the run goes on at `rowAfter`. -/
theorem step_seqPc {s t : State} {m : Mode} {i : Instr} (hm : s.mode = some m) (hi : program params m s.seqPc = some i)
    (hgo : t.halted = false) (h : step s = .next t) : t.seqPc = rowAfter s.seqPc i := by
  obtain ⟨-, hadvance⟩ := seqPcAdvances s t m i hm hi h
  obtain ⟨m', i', -, hm', hi', hexec⟩ := step_next h
  obtain rfl : m = m' := Option.some.inj (hm.symm.trans hm')
  obtain rfl : i = i' := Option.some.inj (hi.symm.trans hi')
  cases i with
  | btone2 k =>
    obtain ⟨hz, -, ⟨-, rfl⟩ | ⟨-, rfl⟩⟩ := execBtone2_next hexec
    · rfl
    · cases hgo
  | jmp k => cases hexec; rfl
  | _ => exact hadvance hgo nofun nofun

/-- No step changes MODE (10_state.md R21). -/
theorem step_mode {s t : State} (h : step s = .next t) : t.mode = s.mode := by
  obtain ⟨m, i, -, -, -, hexec⟩ := step_next h
  exact congrArg Prod.fst (exec_evolves hexec).operands

/-! ## Rows in the order a run performs them -/

/-- `rows` are what the program of `m` holds at `pc` and at the rows a run goes on at from there. -/
def RowsFrom (m : Mode) : StepIndex → List Instr → Prop
  | _, [] => True
  | pc, i :: rest => program params m pc = some i ∧ RowsFrom m (rowAfter pc i) rest

/-- Rows listed in their order answer what as many steps answer, refusals and an early end included (R251, R33). -/
theorem runRows_eq_runToHalt {m : Mode} {rows : List Instr} {s : State} (hrows : RowsFrom m s.seqPc rows)
    (hm : s.mode = some m) (hh : s.halted = false) : runRows (rows.map exec) s = runToHalt rows.length s := by
  induction rows generalizing s with
  | nil => rfl
  | cons i rest ih =>
    obtain ⟨hi, hrest⟩ := hrows
    have hstep : step s = exec i s := step_of_row hh hm hi
    rw [List.map_cons, List.length_cons, runRows]
    cases hrow : exec i s with
    | fault e | refused e => simp only [runToHalt, hh, hstep, hrow, Bool.false_eq_true, if_false]
    | next t =>
      have hnext : step s = .next t := hstep.trans hrow
      rw [runToHalt_of_next hh hnext]
      cases hend : t.halted with
      | true => simp only [hend, if_true, runToHalt_of_halted hend]
      | false =>
        have hpc : t.seqPc = rowAfter s.seqPc i := step_seqPc hm hi hend hnext
        simp only [hend, Bool.false_eq_true, if_false]
        exact ih (hpc ▸ hrest) ((step_mode hnext).trans hm) hend

theorem rowsFrom_sf : RowsFrom .singleFrequency 0 sfRowInstrs := by
  simp [RowsFrom, sfRowInstrs, rowAfter, program]

/-- The last row, `JMP 10`, closes the pass (R260). -/
theorem rowsFrom_fm : RowsFrom .frequencyModulatedTone 0 fmRowInstrs := by
  simp [RowsFrom, fmRowInstrs, rowAfter, program]

/-- Settles O46: each macro is the run of its rows from row 0. -/
theorem macrosAreTheirSteps : Obligations.MacrosAreTheirSteps := by
  intro s hpc hh
  have hentry : { s with seqPc := 0 } = s := by rw [← hpc]
  constructor
  · intro hm
    rw [exec_progSf_rows, hentry]
    exact runRows_eq_runToHalt (hpc ▸ rowsFrom_sf) hm hh
  · intro hm
    rw [exec_progFm_rows, hentry]
    exact runRows_eq_runToHalt (hpc ▸ rowsFrom_fm) hm hh

end Sys2Proof.Machine
end

section
/-! SUPPORT. The tuning-word codec at its boundary (40_codecs.md R121 to R127) and the refusals of the two encoders (R123,
41_tone_sweep.md R164): what the operation ENC_FTW answers on its domain and off it, the word as an integer test, and the bytes
read back. -/

namespace Sys2Proof.Machine

/-! ## ENC_FTW on its domain -/

theorem exec_encFtw_quiet {f : ℚ} {s : State} (hd : s.debug = some false) (h0 : 0 ≤ f) (h1 : wordOf f < 2 ^ 32) :
    exec (.encFtw f) s = .next (s.withWord f) := congrArg (finish s) (encFtw_quiet hd h0 h1)

theorem exec_encFtw_verbose {f : ℚ} {s : State} (hd : s.debug = some true) (h0 : 0 ≤ f) (h1 : wordOf f < 2 ^ 32) :
    exec (.encFtw f) s = .next (s.withWord f).verboseTrace := congrArg (finish s) (encFtw_verbose hd h0 h1)

/-- Settles O11: the bytes stored are those of the integer word. -/
theorem encFtwResult : Obligations.EncFtwResult := fun _ f hd h0 h1 =>
  ⟨_, be4_toList (wordOf f), exec_encFtw_quiet hd h0 h1⟩

/-- Settles O12: as O11, with the record of verbose tracing on top of TRACE. -/
theorem encFtwVerbose : Obligations.EncFtwVerbose := fun _ f hd h0 h1 =>
  ⟨_, _, be4_toList (wordOf f), exec_encFtw_verbose hd h0 h1⟩

/-! ## The encoders off their domains -/

/-- An operation that fails for a reason is refused with it, in the ended state of R31 and R33. -/
theorem finish_error {s : State} {x : Except Reason State} {e : Reason} (h : x = .error e) :
    finish s x = .refused (e.refusal s) := by
  rw [h]; rfl

/-- What refuses ENC_FTW refuses the row that encodes FREQ, for the same reason (43_register_frames.md R230). -/
theorem encFtw_refused {f : ℚ} {s : State} {e : Reason} (h : encFtw params f s = .error e) :
    exec (.encFtw f) s = .refused (e.refusal s) ∧ (s.freq = some f → exec .wrFtw0 s = .refused (e.refusal s)) := by
  refine ⟨finish_error h, fun hf => finish_error ?_⟩
  have hread : s.readFreq = .ok f := readReg_some .freq hf
  unfold wrFtw0
  rw [hread, ok_bind]
  exact error_bind h _

/-- What refuses GEN_RSCW refuses the row that encodes a tone register, for the same reason (43_register_frames.md R234). -/
theorem genRscw_refused {hz : ℚ} {s : State} {e : Reason} (r : ToneReg) (h : genRscw params hz s = .error e) :
    exec (.genRscw hz) s = .refused (e.refusal s) ∧
      (s.tone r = some hz → exec (.wrRscw r) s = .refused (e.refusal s)) := by
  refine ⟨finish_error h, fun hr => finish_error ?_⟩
  have hread : s.readTone r = .ok hz := readReg_some (toneName r) hr
  unfold wrRscw
  rw [hread, ok_bind]
  exact error_bind h _

/-- Settles O13, one reason for refusing after another. -/
theorem encoderRefusals : Obligations.EncoderRefusals := fun s _ r =>
  ⟨fun h => encFtw_refused (encFtw_negative s h), fun h => encFtw_refused (encFtw_overflow s h),
    fun h => genRscw_refused r (genRscw_negative s h), fun h0 h => genRscw_refused r (genRscw_overflow s h0 h)⟩

/-! ## The word as an integer test (R126) -/

theorem wordOf_eq_iff (f : ℚ) (w : ℤ) :
    wordOf f = w ↔ (w : ℚ) * params.sysfreq ≤ f * 2 ^ 32 ∧ f * 2 ^ 32 < ((w : ℚ) + 1) * params.sysfreq := by
  rw [wordOf, Int.floor_eq_iff, le_div_iff₀ sysfreq_pos, div_lt_iff₀ sysfreq_pos]

/-- On the domain the 32-bit word loses nothing of the integer (R140). -/
theorem toNat_word {f : ℚ} (h0 : 0 ≤ f) (h1 : wordOf f < 2 ^ 32) : ((BitVec.ofInt 32 (wordOf f)).toNat : ℤ) = wordOf f := by
  have hpos := wordOf_nonneg h0
  rw [BitVec.toNat_ofInt]
  omega

theorem word_eq_ofNat_iff {f : ℚ} {w : ℕ} (h0 : 0 ≤ f) (h1 : wordOf f < 2 ^ 32) (hw : w < 2 ^ 32) :
    BitVec.ofInt 32 (wordOf f) = BitVec.ofNat 32 w ↔ wordOf f = w := by
  have hword := toNat_word h0 h1
  rw [← BitVec.toNat_inj, BitVec.toNat_ofNat, Nat.mod_eq_of_lt hw]
  omega

/-- Where ENC_FTW completes it stored the word, for either DEBUG. -/
theorem exec_encFtw_next {f : ℚ} {s t : State} (h : exec (.encFtw f) s = .next t) :
    0 ≤ f ∧ wordOf f < 2 ^ 32 ∧ t.ftw = some (BitVec.ofInt 32 (wordOf f)) := by
  obtain ⟨h0, h1, ⟨-, rfl⟩ | ⟨-, rfl⟩⟩ := encFtw_cases (execEncFtw_next h)
  · exact ⟨h0, h1, rfl⟩
  · exact ⟨h0, h1, rfl⟩

/-- ENC_FTW answers a given word exactly when the floor is that word. -/
theorem exec_encFtw_ftw_iff {f : ℚ} {s : State} {w : ℕ} (hd : s.debug = some false) (h0 : 0 ≤ f) (hw : w < 2 ^ 32) :
    (∃ t, exec (.encFtw f) s = .next t ∧ t.ftw = some (BitVec.ofNat 32 w)) ↔ wordOf f = w := by
  constructor
  · rintro ⟨t, ht, hftw⟩
    obtain ⟨-, h1, hword⟩ := exec_encFtw_next ht
    exact (word_eq_ofNat_iff h0 h1 hw).mp (Option.some.inj (hword.symm.trans hftw))
  · intro hword
    have h1 : wordOf f < 2 ^ 32 := by omega
    exact ⟨_, exec_encFtw_quiet hd h0 h1, congrArg some ((word_eq_ofNat_iff h0 h1 hw).mpr hword)⟩

/-- Settles O14: the floor as an integer test, and the floor's monotonicity carried to the words. -/
theorem encFtwIntegerTest : Obligations.EncFtwIntegerTest := by
  refine ⟨fun s f w hd h0 hw => (exec_encFtw_ftw_iff hd h0 hw).trans (wordOf_eq_iff f w), ?_⟩
  intro s t u f g v w hfg ht hv hu hw
  obtain ⟨hf0, hf1, hfw⟩ := exec_encFtw_next ht
  obtain ⟨hg0, hg1, hgw⟩ := exec_encFtw_next hu
  obtain rfl := Option.some.inj (hfw.symm.trans hv)
  obtain rfl := Option.some.inj (hgw.symm.trans hw)
  have hmono : ((BitVec.ofInt 32 (wordOf f)).toNat : ℤ) ≤ (BitVec.ofInt 32 (wordOf g)).toNat := by
    rw [toNat_word hf0 hf1, toNat_word hg0 hg1]
    exact wordOf_mono hfg
  exact BitVec.le_def.mpr (by exact_mod_cast hmono)

/-! ## The round trip (R124) -/

/-- The four bytes of a word, most significant first, make up the word again. -/
theorem decFtw_be4 (c : Config) (w : BitVec 32) : decFtw c (be4 w) = (w.toNat : ℚ) * c.sysfreq / 2 ^ 32 := by
  have hsum : (be4 w)[0].toNat * 2 ^ 24 + (be4 w)[1].toNat * 2 ^ 16 + (be4 w)[2].toNat * 2 ^ 8 + (be4 w)[3].toNat =
      w.toNat := by
    have hw := w.isLt
    simp only [be4, Vector.getElem_mk, List.getElem_toArray, List.getElem_cons_zero, List.getElem_cons_succ,
      BitVec.extractLsb'_toNat, Nat.shiftRight_eq_div_pow]
    omega
  rw [decFtw, hsum]

theorem decFtw_word {f : ℚ} (h0 : 0 ≤ f) (h1 : wordOf f < 2 ^ 32) :
    decFtw params (be4 (BitVec.ofInt 32 (wordOf f))) = (wordOf f : ℚ) * params.sysfreq / 2 ^ 32 := by
  have hnat : ((BitVec.ofInt 32 (wordOf f)).toNat : ℚ) = (wordOf f : ℚ) := by exact_mod_cast toNat_word h0 h1
  rw [decFtw_be4, hnat]

/-- Settles O15: what decoding loses is what the floor cut off, less than one unit of the word. -/
theorem tuningWordRoundTrip : Obligations.TuningWordRoundTrip := by
  intro s f hd h0 h1
  refine ⟨_, _, exec_encFtw_quiet hd h0 h1, rfl, ?_⟩
  obtain ⟨hlow, hhigh⟩ := (wordOf_eq_iff f (wordOf f)).mp rfl
  rw [decFtw_word h0 h1]
  constructor <;> linarith

end Sys2Proof.Machine
end

section
/-! SUPPORT. The amplitude codec at its boundary (40_codecs.md R131 to R137): the conversions write the amplitude of their level
and nothing else; that amplitude as bounds on the real formula, with its order and its value at 0 dB; the test by rational powers;
CHK_ASF. -/

namespace Sys2Proof.Machine

/-! ## The conversions -/

theorem exec_encAsfRel (d : ℚ) (s : State) :
    exec (.encAsfRel d) s = .next { s with asfRaw := some (decibelScale .rne0 16383 d) } := rfl

theorem exec_encAsfDbm (p : ℚ) (s : State) :
    exec (.encAsfDbm p) s = exec (.encAsfRel (p - params.pMaxDbm)) s := rfl

/-- Settles O20. -/
theorem asfIntIsDirect : Obligations.AsfIntIsDirect := fun _ _ => rfl

/-- Settles O16: the exact evaluation is the rounded real formula. -/
theorem asfRelIsTheRealFormula : Obligations.AsfRelIsTheRealFormula := fun s d =>
  ⟨_, exec_encAsfRel d s, isDecibels_iff.mpr rfl⟩

theorem encAsfRel_asfRaw_iff {d : ℚ} {n : ℕ} {s t : State} (h : exec (.encAsfRel d) s = .next t) :
    t.asfRaw = some n ↔ isDecibels d n := by
  rw [exec_encAsfRel] at h
  cases h
  rw [isDecibels_iff, Option.some_inj, eq_comm]

/-! ## The amplitude of a level (R136) -/

/-- Rounding to nearest as bounds half a step to either side, in the scale of R137: 32766 is twice ASF_MAX. -/
theorem isDecibels_iff_bounds {d : ℚ} {n : ℕ} :
    isDecibels d n ↔ (2 * (n : ℝ) - 1) / 32766 ≤ (10 : ℝ) ^ ((d : ℝ) / 20) ∧
      (10 : ℝ) ^ ((d : ℝ) / 20) < (2 * (n : ℝ) + 1) / 32766 := by
  rw [isDecibels, eq_comm, Int.floor_eq_iff, Int.cast_natCast]
  constructor <;> rintro ⟨hlow, hhigh⟩ <;> constructor <;> linarith

theorem isDecibels_mono {d e : ℚ} {m n : ℕ} (hde : d ≤ e) (hm : isDecibels d m) (hn : isDecibels e n) : m ≤ n := by
  have hpow : (10 : ℝ) ^ ((d : ℝ) / 20) ≤ (10 : ℝ) ^ ((e : ℝ) / 20) :=
    Real.rpow_le_rpow_of_exponent_le (by norm_num) (by gcongr)
  have hfloor : (m : ℤ) ≤ (n : ℤ) := by
    rw [hm, hn]
    gcongr
  exact_mod_cast hfloor

/-- 0 dB is full scale. -/
theorem isDecibels_zero : isDecibels 0 16383 := by
  rw [isDecibels_iff_bounds]
  norm_num

theorem decibelScale_zero : decibelScale .rne0 16383 0 = 16383 := (isDecibels_iff.mp isDecibels_zero).symm

/-- The case of the source's strict bound that stands (R136, conflict C2). -/
theorem isDecibels_lt_full {d : ℚ} {n : ℕ} (h : isDecibels d n) (hd : (10 : ℝ) ^ ((d : ℝ) / 20) * 16383 < 16382.5) :
    n < 16383 := by
  obtain ⟨hlow, -⟩ := isDecibels_iff_bounds.mp h
  have hn : (n : ℝ) < 16383 := by linarith
  exact_mod_cast hn

/-- Settles O18: full scale at 0 dB, the order of the levels, and with both the bound below 0 dB. -/
theorem asfRelProperties : Obligations.AsfRelProperties := by
  refine ⟨fun s => ?_, ?_, ?_⟩
  · rw [exec_encAsfRel, decibelScale_zero]
  · intro s t u d e m n hde ht hm hu hn
    exact isDecibels_mono hde ((encAsfRel_asfRaw_iff ht).mp hm) ((encAsfRel_asfRaw_iff hu).mp hn)
  · intro s t d n hd ht hn
    have hdb := (encAsfRel_asfRaw_iff ht).mp hn
    exact ⟨isDecibels_mono hd.le hdb isDecibels_zero, isDecibels_lt_full hdb⟩

/-- Settles O19: the relative conversion at the level less P_MAX_DBM, which is 0 dB at P_MAX_DBM. -/
theorem asfDbmIsRelativeToMaximum : Obligations.AsfDbmIsRelativeToMaximum := by
  intro s p
  refine ⟨_, (exec_encAsfDbm p s).trans (exec_encAsfRel _ s), isDecibels_iff.mpr rfl, fun hp => ?_⟩
  rw [hp, sub_self, decibelScale_zero]

/-! ## The test by rational powers (R137) -/

/-- Both sides of a comparison with `10^(d/20)`, `d = a/b`, raised to the power `20b`. -/
theorem pow_le_ten_zpow_iff (a : ℤ) {b : ℕ} (hb : 0 < b) {c : ℚ} (hc : 0 ≤ c) :
    c ^ (20 * b) ≤ (10 : ℚ) ^ a ↔ (c : ℝ) ≤ (10 : ℝ) ^ ((((a : ℚ) / b : ℚ) : ℝ) / 20) := by
  set x : ℝ := (10 : ℝ) ^ ((((a : ℚ) / b : ℚ) : ℝ) / 20) with hx
  have hb' : (b : ℝ) ≠ 0 := by exact_mod_cast hb.ne'
  have hexp : (((a : ℚ) / b : ℚ) : ℝ) / 20 * ((20 * b : ℕ) : ℝ) = (a : ℝ) := by
    push_cast
    field_simp
  have hpow : x ^ (20 * b) = (10 : ℝ) ^ a := by
    rw [hx, ← Real.rpow_natCast, ← Real.rpow_mul (by norm_num), hexp, Real.rpow_intCast]
  calc c ^ (20 * b) ≤ (10 : ℚ) ^ a ↔ (c : ℝ) ^ (20 * b) ≤ x ^ (20 * b) := by
        rw [hpow, ← Rat.cast_le (K := ℝ)]
        push_cast
        rfl
    _ ↔ (c : ℝ) ≤ x := pow_le_pow_iff_left₀ (by exact_mod_cast hc) (by positivity) (by omega)

theorem ten_zpow_lt_pow_iff (a : ℤ) {b : ℕ} (hb : 0 < b) {c : ℚ} (hc : 0 ≤ c) :
    (10 : ℚ) ^ a < c ^ (20 * b) ↔ (10 : ℝ) ^ ((((a : ℚ) / b : ℚ) : ℝ) / 20) < (c : ℝ) :=
  lt_iff_lt_of_le_iff_le (pow_le_ten_zpow_iff a hb hc)

/-- Settles O17: the bounds on the real formula, each raised to the power `20b`; at 0 the lower one says nothing. -/
theorem asfRelRationalTest : Obligations.AsfRelRationalTest := by
  intro s t a b n hb ht
  constructor
  · intro hn
    have hn' : (1 : ℚ) ≤ n := by exact_mod_cast hn
    have hlow : (0 : ℚ) ≤ (2 * n - 1) / 32766 := by linarith
    have hhigh : (0 : ℚ) ≤ (2 * n + 1) / 32766 := by positivity
    rw [encAsfRel_asfRaw_iff ht, isDecibels_iff_bounds, pow_le_ten_zpow_iff a hb hlow, ten_zpow_lt_pow_iff a hb hhigh]
    push_cast
    rfl
  · have hlow : (2 * ((0 : ℕ) : ℝ) - 1) / 32766 ≤ (10 : ℝ) ^ ((((a : ℚ) / b : ℚ) : ℝ) / 20) :=
      le_trans (b := 0) (by norm_num) (by positivity)
    rw [encAsfRel_asfRaw_iff ht, isDecibels_iff_bounds, and_iff_right hlow, ten_zpow_lt_pow_iff a hb (by norm_num)]
    norm_num

/-! ## CHK_ASF (R134, R135) -/

/-- The high byte of ASFBUF is six bits of ASF under two zero bits (R135). -/
theorem be2_asf_fields (a : BitVec 14) :
    be2 (a.setWidth 16) = #v[(0 : BitVec 2) ++ a.extractLsb' 8 6, a.extractLsb' 0 8] := by
  have hhigh : (a.setWidth 16).extractLsb' 8 8 = (0 : BitVec 2) ++ a.extractLsb' 8 6 := by
    apply BitVec.eq_of_toNat_eq
    simp only [BitVec.extractLsb'_toNat, BitVec.toNat_setWidth, BitVec.toNat_append, BitVec.ofNat_eq_ofNat, BitVec.toNat_zero,
      Nat.zero_shiftLeft, Nat.zero_or, Nat.shiftRight_eq_div_pow]
    omega
  have hlow : (a.setWidth 16).extractLsb' 0 8 = a.extractLsb' 0 8 := by
    apply BitVec.eq_of_toNat_eq
    simp only [BitVec.extractLsb'_toNat, BitVec.toNat_setWidth, Nat.shiftRight_eq_div_pow]
    omega
  exact congrArg₂ (fun x y : Byte => #v[x, y]) hhigh hlow

/-- CHK_ASF tests the amplitude it finds against ASF_MAX. -/
theorem exec_chkAsf {n : ℕ} {s : State} (hr : s.asfRaw = some n) :
    exec .chkAsf s = .next (if 16383 < n then raiseFatal .ampRange s else storeAsf n s) := by
  have hread : s.readAsfRaw = .ok n := readReg_some .asfRaw hr
  have hchk : chkAsf params s = .ok (if 16383 < n then raiseFatal .ampRange s else storeAsf n s) := by
    unfold chkAsf
    rw [hread, apply_ite Except.ok]
    simp only [ampOutOfRange_params, decide_eq_true_eq]
  exact congrArg (finish s) hchk

/-- Settles O21: the amplitude stored up to ASF_MAX, the fatal error above. -/
theorem chkAsfResult : Obligations.ChkAsfResult := by
  intro s n hr
  rw [exec_chkAsf hr]
  constructor
  · intro hn
    rw [if_neg (not_lt.mpr hn), storeAsf, be2_asf_fields]
  · intro hn
    rw [if_pos hn]
    exact ⟨_, _, rfl⟩

end Sys2Proof.Machine
end

section
/-! SUPPORT. The tone-sweep generator (41_tone_sweep.md): the control word of a tone and its default, the table of tuning words
that GEN_RAMTAB leaves in RAMBUF and how a slot off the codec's domain refuses the whole table, and the tone table as a rounded
sine. -/

namespace Sys2Proof.Machine

/-! ## GEN_RSCW (R161, R162) -/

theorem exec_genRscw_admitted {t : ℚ} (s : State) (h : toneAdmitted t) : exec (.genRscw t) s = .next (s.withRate t) :=
  congrArg (finish s) (genRscw_admitted s h)

/-- Settles O22: the rate and the bytes stored are those of the rounded quotient. -/
theorem genRscwResult : Obligations.GenRscwResult := by
  intro s t h
  have hnonneg : 0 ≤ t := h.1
  refine ⟨rscwBytes params (BitVec.ofInt 16 (rampRate params t)), rscwBytes_toList hnonneg, ?_⟩
  rw [exec_genRscw_admitted s h, State.withRate, ← rampRate_params hnonneg]

theorem effectiveTone_zero : effectiveTone params 0 = 1000 := if_pos rfl

theorem effectiveTone_thousand : effectiveTone params 1000 = 1000 := if_neg (by norm_num)

theorem rampRate_thousand : rampRate params 1000 = 1000 := by
  rw [rampRate_params (by norm_num), if_neg (by norm_num), Int.floor_eq_iff]
  norm_num

theorem rampRate_zero : rampRate params 0 = 1000 := by
  rw [← rampRate_thousand, rampRate, rampRate, effectiveTone_zero, effectiveTone_thousand]

/-- A tone that is not negative is admitted as soon as its rate fits (R164). -/
theorem toneAdmitted_of_rampRate {t : ℚ} (h : 0 ≤ t) (hfit : rampRate params t ≤ 65535) : toneAdmitted t :=
  ⟨h, rampRate_params h ▸ hfit⟩

/-- Settles O23: both tones have the rate 1000, and GEN_RSCW stores nothing else of the tone. -/
theorem genRscwDefaultTone : Obligations.GenRscwDefaultTone := by
  intro s
  have hzero : toneAdmitted 0 := toneAdmitted_of_rampRate le_rfl (by rw [rampRate_zero]; decide)
  have hthousand : toneAdmitted 1000 := toneAdmitted_of_rampRate (by norm_num) (by rw [rampRate_thousand]; decide)
  have hsame : s.withRate 0 = s.withRate 1000 := by
    rw [State.withRate, State.withRate, rampRate_zero, rampRate_thousand]
  refine ⟨?_, s.withRate 0, exec_genRscw_admitted s hzero, ?_, rfl, rfl⟩
  · rw [exec_genRscw_admitted s hzero, exec_genRscw_admitted s hthousand, hsame]
  · rw [State.withRate, rampRate_zero]
    rfl

/-! ## The table GEN_RAMTAB writes (R170) -/

/-- GEN_RAMTAB with its carrier read: the table, then the row 7 (44_sequencer.md R258). -/
theorem exec_genRamtab {k : Carrier} {s : State} {c : ℚ} (hk : s.readCarrier k = .ok c) :
    exec (.genRamtab k) s = finish s (genRamtab params c s >>= fun t => pure { t with seqPc := 7 }) := by
  change execGenRamtab k s = _
  rw [execGenRamtab, hk, ok_bind]

theorem exec_genRamtab_ok {k : Carrier} {s t : State} {c : ℚ} (hk : s.readCarrier k = .ok c)
    (h : genRamtab params c s = .ok t) : exec (.genRamtab k) s = .next { t with seqPc := 7 } := by
  rw [exec_genRamtab hk, h]
  rfl

/-- Every sum of the table is in the codec's domain when the carrier keeps the peak's distance from both ends. -/
theorem toneTable_sum_domain {c : ℚ} (hlow : 2500 ≤ c) (hhigh : c + 2500 < params.sysfreq) :
    ∀ o ∈ params.toneTable, 0 ≤ c + (o : ℚ) ∧ wordOf (c + o) < 2 ^ 32 := by
  intro o ho
  obtain ⟨hmin, hmax⟩ := toneTable_within o ho
  have hmin' : (-2500 : ℚ) ≤ o := by exact_mod_cast hmin
  have hmax' : (o : ℚ) ≤ 2500 := by exact_mod_cast hmax
  exact ⟨by linarith, wordOf_lt_of_lt_sysfreq (by linarith)⟩

/-- Byte `j` of entry `i` after all slots. -/
theorem memGet_tableCells_entry (c : ℚ) (m : List Host.Cell) {i j : ℕ} {o : ℤ} (ho : params.toneTable[i]? = some o)
    (hj : j < 4) : memGet (tableCells c m 100) (4 * i + j) = (wordBytes (wordOf (c + o)))[j]? := by
  have hi : i < 100 := (List.getElem?_eq_some_iff.mp ho).1
  have hentry : (4 * i + j) / 4 = i := by omega
  have hbyte : (4 * i + j) % 4 = j := by omega
  rw [memGet_tableCells, if_pos (by omega), hentry, hbyte, ho, Option.getD_some]

/-- Settles O24: all sums are in the codec's domain, so the slots complete, and what they leave is the table. -/
theorem genRamtabTable : Obligations.GenRamtabTable := by
  intro s k c verbose hd hk hlow hhigh
  have hloaded : s.debug ≠ none := by rw [hd]; exact Option.some_ne_none _
  obtain ⟨t, ht⟩ := genRamtab_ok hloaded (toneTable_sum_domain hlow hhigh)
  obtain ⟨w, new, hverbose, hquiet, rfl⟩ := genRamtab_cases ht
  refine ⟨_, new, exec_genRamtab_ok (readCarrier_ok hk) ht, rfl,
    fun i o j ho hj => memGet_tableCells_entry c s.rambuf ho hj, fun a ha => ?_, rfl,
    fun e he => ⟨?_, hverbose e he⟩, rfl⟩
  · exact (memGet_tableCells c s.rambuf 100 a).trans (if_neg (by omega))
  · cases verbose with
    | true => rfl
    | false =>
      rw [hquiet hd] at he
      cases he

/-! ## A slot off the codec's domain refuses the table (R172) -/

/-- A fold stops with the error of a step, when every step before it goes on in the invariant or stops with that same error. -/
theorem foldlM_error {ι : Type} {f : State → ι → Except Reason State} {P : State → Prop} {e : Reason} {l : List ι}
    (hstep : ∀ i ∈ l, ∀ u, P u → (∃ v, f u i = .ok v ∧ P v) ∨ f u i = .error e)
    (hstop : ∃ i ∈ l, ∀ u, f u i = .error e) {s : State} (hs : P s) : l.foldlM f s = .error e := by
  induction l generalizing s with
  | nil =>
    obtain ⟨i, hi, -⟩ := hstop
    cases hi
  | cons i l ih =>
    rw [List.foldlM_cons]
    rcases hstep i List.mem_cons_self s hs with ⟨v, hv, hPv⟩ | herr
    · obtain ⟨j, hj, hjstop⟩ := hstop
      have htail : j ∈ l := (List.mem_cons.mp hj).resolve_left fun hji => by
        rw [← hji, hjstop s] at hv
        cases hv
      rw [hv, ok_bind]
      exact ih (fun k hk => hstep k (List.mem_cons_of_mem i hk)) ⟨j, htail, hjstop⟩ hPv
    · exact error_bind herr _

/-- A slot answers the error of its encoding (R172). -/
theorem ramtabEntry_error {c : ℚ} {s : State} {i : ℕ} {o : ℤ} {e : Reason} (ho : params.toneTable[i]? = some o)
    (h : encFtw params (c + o) s = .error e) : ramtabEntry params c s i = .error e := by
  have hrom : toneRomRead params i = .ok o := by rw [toneRomRead, ho]
  unfold ramtabEntry
  rw [hrom, ok_bind]
  exact error_bind h _

/-- The table is refused for the one reason its sums are refused for, whichever slot meets it first. -/
theorem genRamtab_error {c : ℚ} {s : State} {e : Reason} (hd : s.debug ≠ none)
    (hsum : ∀ o ∈ params.toneTable,
      (0 ≤ c + (o : ℚ) ∧ wordOf (c + o) < 2 ^ 32) ∨ ∀ u, encFtw params (c + o) u = .error e)
    (hstop : ∃ o ∈ params.toneTable, ∀ u, encFtw params (c + o) u = .error e) : genRamtab params c s = .error e := by
  refine foldlM_error (P := fun u => u.debug ≠ none) (fun i hi u hu => ?_) ?_ hd
  · have hlt : i < params.toneTable.length := List.mem_range.mp hi
    have hget := List.getElem?_eq_getElem hlt
    rcases hsum _ (List.getElem_mem hlt) with ⟨h0, h1⟩ | herr
    · obtain ⟨v, hv⟩ := ramtabEntry_ok hu hget h0 h1
      exact .inl ⟨v, hv, ramtabEntry_debug hv ▸ hu⟩
    · exact .inr (ramtabEntry_error hget (herr u))
  · obtain ⟨o, ho, herr⟩ := hstop
    obtain ⟨i, hget⟩ := List.mem_iff_getElem?.mp ho
    have hi : i < params.nTab := (List.getElem?_eq_some_iff.mp hget).1
    exact ⟨i, List.mem_range.mpr hi, fun u => ramtabEntry_error hget (herr u)⟩

/-- The lowest entry of the table (R166). -/
theorem neg_peak_mem_toneTable : -2500 ∈ params.toneTable := by decide

/-- The highest entry of the table (R166). -/
theorem peak_mem_toneTable : 2500 ∈ params.toneTable := by decide

theorem le_wordOf_of_sysfreq_le {f : ℚ} (h : params.sysfreq ≤ f) : 2 ^ 32 ≤ wordOf f := by
  rw [wordOf, Int.le_floor, le_div_iff₀ sysfreq_pos]
  push_cast
  linarith

theorem genRamtab_negative {c : ℚ} {s : State} (hd : s.debug ≠ none) (hc : c < 2500) :
    genRamtab params c s = .error .negativeFrequency := by
  refine genRamtab_error hd (fun o ho => ?_) ⟨-2500, neg_peak_mem_toneTable, fun u => ?_⟩
  · by_cases hneg : c + (o : ℚ) < 0
    · exact .inr fun u => encFtw_negative u hneg
    · have hmax : (o : ℚ) ≤ 2500 := by exact_mod_cast (toneTable_within o ho).2
      have hfreq : (5000 : ℚ) < params.sysfreq := by norm_num [params]
      exact .inl ⟨not_lt.mp hneg, wordOf_lt_of_lt_sysfreq (by linarith)⟩
  · exact encFtw_negative u (by push_cast; linarith)

theorem genRamtab_overflow {c : ℚ} {s : State} (hd : s.debug ≠ none) (hlow : 2500 ≤ c)
    (hhigh : params.sysfreq ≤ c + 2500) : genRamtab params c s = .error .tuningWordOverflow := by
  refine genRamtab_error hd (fun o ho => ?_) ⟨2500, peak_mem_toneTable, fun u => ?_⟩
  · by_cases hfits : wordOf (c + o) < 2 ^ 32
    · have hmin : (-2500 : ℚ) ≤ o := by exact_mod_cast (toneTable_within o ho).1
      exact .inl ⟨by linarith, hfits⟩
    · exact .inr fun u => encFtw_overflow u (not_lt.mp hfits)
  · exact encFtw_overflow u (le_wordOf_of_sysfreq_le (by push_cast; exact hhigh))

/-- What refuses the table refuses the operation, in the state it began in but for HALTED and EXIT_CODE (R171, R172). -/
theorem exec_genRamtab_error {k : Carrier} {s : State} {c : ℚ} {e : Reason} (hk : s.readCarrier k = .ok c)
    (h : genRamtab params c s = .error e) : exec (.genRamtab k) s = .refused (e.refusal s) := by
  rw [exec_genRamtab hk]
  exact finish_error (error_bind h _)

/-- Settles O25: below 2500 Hz the lowest entry refuses, and towards SYSFREQ the highest one does. -/
theorem genRamtabRefusals : Obligations.GenRamtabRefusals := fun _ _ _ hd hk =>
  ⟨fun hc => exec_genRamtab_error (readCarrier_ok hk) (genRamtab_negative hd hc),
    fun hlow hhigh => exec_genRamtab_error (readCarrier_ok hk) (genRamtab_overflow hd hlow hhigh)⟩

/-! ## The tone table as a rounded sine (R166) -/

/-- An integer less than a half away from a real number is that number rounded. -/
theorem eq_round_of_abs_sub_lt_half {o : ℤ} {x : ℝ} (h : |(o : ℝ) - x| < 1 / 2) : o = round x := by
  obtain ⟨hlow, hhigh⟩ := abs_lt.mp h
  exact (round_eq_iff.mpr ⟨by linarith, by linarith⟩).symm

theorem toneTable_sum : params.toneTable.sum = 0 := by decide +kernel

/-- Settles O60: each entry is close enough to the sine to be its rounding; the named entries and the sum are the table's own. -/
theorem toneTableIsRoundedSine : Obligations.ToneTableIsRoundedSine := by
  refine ⟨toneTable_length, fun i o h => ?_, rfl, rfl, rfl, rfl, toneTable_sum⟩
  have hnear := toneTable_near_sine h
  exact ⟨eq_round_of_abs_sub_lt_half (hnear.trans_lt (by norm_num)), hnear⟩

end Sys2Proof.Machine
end

section
/-! SUPPORT. The transport's operations as the rules list them (42_transport.md): the events of SHIFT_BYTE, STROBE and XFER, the
refusal of an XFER with a pin that is no output, the events of a frame counted, and that chip-select, once active, stays so
through every operation but INIT. -/

namespace Sys2Proof.Machine

/-- A log grown at its head is a TRACE grown at its end (10_state.md R40). -/
theorem trace_of_log {s t : State} {es : List Event} (h : t.log = es.reverse ++ s.log) : t.trace = s.trace ++ es := by
  simp [State.trace, h]

/-! ## SHIFT_BYTE and STROBE (R194, R196) -/

/-- The events of the shift loop are the bit loop of the rule. -/
theorem byteEvents_eq_bitLoopEvents : byteEvents = bitLoopEvents := rfl

/-- Settles O26: the shift loop in closed form. -/
theorem shiftByteEvents : Obligations.ShiftByteEvents := by
  intro s b
  have hlog : (shiftByte b s).log = (bitLoopEvents b).reverse ++ s.log := by rw [shiftByte_eq]; rfl
  have hpins : (shiftByte b s).pins = s.pins.replay (bitLoopEvents b) := by rw [shiftByte_eq]; rfl
  refine ⟨shiftByte b s, rfl, trace_of_log hlog, hpins, ?_⟩
  rw [shiftByte_eq]
  exact ⟨rfl, rfl, rfl⟩

/-- Settles O27: the pulse in closed form; on the pins it is IOUPDATE back at low. (`strobeEvents` is the model's list itself.) -/
theorem execStrobeEvents : Obligations.StrobeEvents := by
  intro s
  have hlog : (strobe params s).log = (strobeEvents params).reverse ++ s.log := by rw [strobe_eq]
  have hpins : (strobe params s).pins = s.pins.replay (strobeEvents params) := by rw [strobe_eq]
  refine ⟨strobe params s, rfl, trace_of_log hlog, hpins.trans (replay_strobe_pins params s.pins), ?_⟩
  rw [strobe_eq]

/-! ## No release of chip-select (R199) -/

/-- The event that would release chip-select. -/
def csRelease (c : Config) : Event := .drive .cs (!c.csActive)

theorem csRelease_notMem_pauseEvents (c : Config) (ms : ℕ) : csRelease c ∉ pauseEvents ms := by
  unfold pauseEvents
  split <;> simp [csRelease]

theorem csRelease_notMem_byteEvents (c : Config) (b : Byte) : csRelease c ∉ byteEvents b := by
  simp [csRelease, byteEvents, bitsMsbFirst, bitEvents]

theorem csRelease_notMem_strobeEvents (c : Config) : csRelease c ∉ strobeEvents c := by
  have hedge : ∀ l, csRelease c ≠ .drive .ioupdate l := by simp [csRelease]
  simp [strobeEvents, csRelease_notMem_pauseEvents, hedge]

/-- A frame drives chip-select once, to active. -/
theorem csRelease_notMem_frameEvents (c : Config) (i : Byte) (d : List Byte) : csRelease c ∉ frameEvents c i d := by
  have hselect : csRelease c ≠ .drive .cs c.csActive := by simp [csRelease]
  simp [frameEvents_eq, hselect, csRelease_notMem_byteEvents, csRelease_notMem_strobeEvents]

theorem csRelease_notMem_of_verbose {es : List Event} (h : ∀ e ∈ es, e.isVerbose = true) : csRelease params ∉ es :=
  fun hmem => absurd (h _ hmem) Bool.false_ne_true

/-- Only a release takes chip-select from active (10_state.md R36). -/
theorem cs_level_event {ps : Pins} {e : Event} (he : e ≠ csRelease params)
    (h : ps.cs.level = .ofBool params.csActive) : (ps.event e).cs.level = .ofBool params.csActive := by
  cases e with
  | dir p => cases p <;> exact h
  | drive p l =>
    cases p with
    | cs =>
      have hl : l = params.csActive := by
        by_contra hne
        exact he (congrArg (Event.drive .cs) (Bool.eq_not_of_ne hne))
      rw [hl]
      rfl
    | reset | sclk | sdio | ioupdate => exact h
  | sleep ms => exact h
  | diag k => exact h
  | trace text => exact h
  | exit code => exact h

theorem cs_level_replay {ps : Pins} {es : List Event} (hes : csRelease params ∉ es)
    (h : ps.cs.level = .ofBool params.csActive) : (ps.replay es).cs.level = .ofBool params.csActive := by
  induction es generalizing ps with
  | nil => exact h
  | cons e rest ih =>
    obtain ⟨he, hrest⟩ := not_or.mp (List.mem_cons.not.mp hes)
    exact ih hrest (cs_level_event (Ne.symm he) h)

/-! ## XFER (R191 to R193, R199) -/

theorem frameEvents_eq_bitLoopEvents (c : Config) (i : Byte) (d : List Byte) :
    frameEvents c i d = .drive .cs c.csActive :: ((i :: d).flatMap bitLoopEvents ++ strobeEvents c) := by
  rw [frameEvents_eq, byteEvents_eq_bitLoopEvents, List.flatMap_cons, List.append_assoc]

/-- Settles O28: with all pins outputs the frame is sent. -/
theorem xferEvents : Obligations.XferEvents := by
  intro s i d hout
  exact ⟨afterXfer params i d s, frameEvents params i d, exec_xfer_of_allOut i d hout,
    frameEvents_eq_bitLoopEvents params i d, afterXfer_trace params i d s, afterXfer_pins params i d s,
    csRelease_notMem_frameEvents params i d, rfl⟩

theorem allOut_of_input {ps : Pins} {p : Pin} (h : (ps.get p).dir = .input) : ps.allOut = false := by
  cases p <;> simp_all [Pins.get, Pins.allOut]

/-- A register-write operation that answers found all pins outputs: its one frame was sent (43_register_frames.md R220). -/
theorem registerWrite_allOut {i : Instr} {r : ChipReg} {s t : State} (hr : i.chipReg? = some r)
    (h : exec i s = .next t) : s.pins.allOut = true := by
  cases i <;> cases hr
  case wrCfr1 => obtain ⟨m, -, hout, -⟩ := execWrCfr1_next h; exact hout
  case wrArr => exact (execWrArr_next h).1
  case wrCfr2 => exact (execWrCfr2_next h).1
  case wrAsf => obtain ⟨b, -, hout, -⟩ := execWrAsf_next h; exact hout
  case wrFtw0 => obtain ⟨f, u, -, -, hout, -⟩ := execWrFtw0_next h; exact hout
  case wrRam => obtain ⟨bs, -, hout, -⟩ := execWrRam_next h; exact hout
  case wrRscw => obtain ⟨hz, -, -, hout, -⟩ := execWrRscw_next h; exact hout

/-- Settles O29: the one pin fails the test that every frame makes first. -/
theorem xferUnconfiguredRefused : Obligations.XferUnconfiguredRefused := by
  intro s p hp
  have hout : s.pins.allOut = false := allOut_of_input hp
  refine ⟨fun i d => finish_error (xfer_of_not_allOut params i d s hout), fun i r t hr h => ?_⟩
  rw [registerWrite_allOut hr h] at hout
  cases hout

/-! ## The events of a frame, counted (R197) -/

/-- A `Drive` event (00_scope.md R12). -/
def Event.isDrive : Event → Bool
  | .drive _ _ => true
  | .dir _ | .sleep _ | .diag _ | .trace _ | .exit _ => false

/-- What each byte has `k` of, a frame has `k` of for every byte, besides what chip-select and the strobe have. -/
theorem countP_frameEvents {P : Event → Bool} {k : ℕ} (hbyte : ∀ b, (byteEvents b).countP P = k) (c : Config) (i : Byte)
    (d : List Byte) : (frameEvents c i d).countP P =
      [Event.drive .cs c.csActive].countP P + k * (1 + d.length) + (strobeEvents c).countP P := by
  have hpayload : (d.flatMap byteEvents).countP P = k * d.length := by
    induction d with
    | nil => rfl
    | cons b rest ih => rw [List.flatMap_cons, List.countP_append, hbyte, ih, List.length_cons]; ring
  rw [frameEvents_eq, ← List.singleton_append, List.countP_append, List.countP_append, List.countP_append, hbyte, hpayload]
  ring

theorem countP_pauseEvents {P : Event → Bool} (hP : ∀ ms, P (.sleep ms) = false) (ms : ℕ) :
    (pauseEvents ms).countP P = 0 := by
  unfold pauseEvents
  split <;> simp [hP]

/-- What no `Sleep` is, a strobe has as often as its two edges. -/
theorem countP_strobeEvents {P : Event → Bool} (hP : ∀ ms, P (.sleep ms) = false) (c : Config) :
    (strobeEvents c).countP P = [Event.drive .ioupdate true, .drive .ioupdate false].countP P := by
  simp only [strobeEvents, List.countP_append, countP_pauseEvents hP, List.countP_cons, List.countP_nil]
  omega

theorem clockPulses_frameEvents (c : Config) (i : Byte) (d : List Byte) :
    clockPulses (frameEvents c i d) = 8 + 8 * d.length := by
  have hbyte : ∀ b, (byteEvents b).countP (· == .drive .sclk true) = 8 := fun b => by
    simp [byteEvents, bitsMsbFirst, bitEvents]
  have hselect : [Event.drive .cs c.csActive].countP (· == .drive .sclk true) = 0 := rfl
  have hstrobe : [Event.drive .ioupdate true, .drive .ioupdate false].countP (· == .drive .sclk true) = 0 := rfl
  rw [clockPulses, ← List.countP_eq_length_filter, countP_frameEvents hbyte, countP_strobeEvents (fun _ => rfl), hselect,
    hstrobe]
  ring

theorem drives_frameEvents (c : Config) (i : Byte) (d : List Byte) :
    ((frameEvents c i d).filter Event.isDrive).length = 1 + 3 * (8 + 8 * d.length) + 2 := by
  have hbyte : ∀ b, (byteEvents b).countP Event.isDrive = 24 := fun _ => rfl
  have hselect : [Event.drive .cs c.csActive].countP Event.isDrive = 1 := rfl
  have hstrobe : [Event.drive .ioupdate true, .drive .ioupdate false].countP Event.isDrive = 2 := rfl
  rw [← List.countP_eq_length_filter, countP_frameEvents hbyte, countP_strobeEvents (fun _ => rfl), hselect, hstrobe]
  ring

/-- Settles O30: what XFER appends is its frame. -/
theorem xferEventCount : Obligations.XferEventCount := by
  intro s t i d h
  obtain ⟨-, rfl⟩ := execXfer_next h
  refine ⟨frameEvents params i d, afterXfer_trace params i d s, clockPulses_frameEvents params i d, ?_⟩
  rw [← drives_frameEvents params i d]
  exact congrArg List.length (List.filter_congr fun e _ => by cases e <;> rfl)

/-! ## Chip-select through every operation (R199) -/

/-- What O56 says of one operation, as a relation that composes: no event from `s` to `t` releases chip-select, and chip-select
is still active if it was. -/
def KeepsChipSelect (s t : State) : Prop :=
  ∃ new, t.trace = s.trace ++ new ∧ csRelease params ∉ new ∧
    (s.pins.cs.level = .ofBool params.csActive → t.pins.cs.level = .ofBool params.csActive)

theorem KeepsChipSelect.trans {s t u : State} (h : KeepsChipSelect s t) (k : KeepsChipSelect t u) :
    KeepsChipSelect s u := by
  obtain ⟨es, hes, hesFree, hesCs⟩ := h
  obtain ⟨fs, hfs, hfsFree, hfsCs⟩ := k
  exact ⟨es ++ fs, by rw [hfs, hes, List.append_assoc], by simp [hesFree, hfsFree], hfsCs ∘ hesCs⟩

/-- Pin events, none of them a release, in the order performed. -/
theorem keepsChipSelect_of_replay {s t : State} {es : List Event} (hlog : t.log = es.reverse ++ s.log)
    (hpins : t.pins = s.pins.replay es) (hes : csRelease params ∉ es) : KeepsChipSelect s t :=
  ⟨es, trace_of_log hlog, hes, fun h => hpins ▸ cs_level_replay hes h⟩

/-- Records that move no pin, the newest first. -/
theorem keepsChipSelect_of_records {s t : State} {es : List Event} (hlog : t.log = es ++ s.log)
    (hpins : t.pins = s.pins) (hes : csRelease params ∉ es) : KeepsChipSelect s t :=
  ⟨es.reverse, trace_of_log (by rw [hlog, List.reverse_reverse]), by simpa using hes, fun h => hpins ▸ h⟩

/-- Neither event nor pin. -/
theorem keepsChipSelect_of_same {s t : State} (hlog : t.log = s.log) (hpins : t.pins = s.pins) : KeepsChipSelect s t :=
  keepsChipSelect_of_records (es := []) hlog hpins List.not_mem_nil

theorem setPc_keepsChipSelect (s : State) (pc : StepIndex) : KeepsChipSelect s { s with seqPc := pc } :=
  keepsChipSelect_of_same rfl rfl

theorem encFtw_keepsChipSelect {f : ℚ} {s t : State} (h : encFtw params f s = .ok t) : KeepsChipSelect s t := by
  obtain ⟨new, hverbose, -, rfl⟩ := encFtw_frame h
  exact keepsChipSelect_of_records rfl rfl (csRelease_notMem_of_verbose hverbose)

theorem genRamtab_keepsChipSelect {c : ℚ} {s t : State} (h : genRamtab params c s = .ok t) : KeepsChipSelect s t := by
  obtain ⟨w, new, hverbose, -, rfl⟩ := genRamtab_cases h
  exact keepsChipSelect_of_records rfl rfl (csRelease_notMem_of_verbose hverbose)

theorem raiseFatal_keepsChipSelect (cause : FatalCause) (s : State) : KeepsChipSelect s (raiseFatal cause s) :=
  keepsChipSelect_of_records (es := [.exit 1, .diag (.fatal cause)]) rfl rfl (by simp [csRelease])

theorem exitRun_keepsChipSelect (code : ℕ) (s : State) : KeepsChipSelect s (exitRun code s) :=
  keepsChipSelect_of_records (es := [.exit code]) rfl rfl (by simp [csRelease])

theorem shiftByte_keepsChipSelect (b : Byte) (s : State) : KeepsChipSelect s (shiftByte b s) := by
  rw [shiftByte_eq]
  exact keepsChipSelect_of_replay rfl rfl (csRelease_notMem_byteEvents params b)

theorem strobe_keepsChipSelect (s : State) : KeepsChipSelect s (strobe params s) := by
  rw [strobe_eq]
  exact keepsChipSelect_of_replay rfl rfl (csRelease_notMem_strobeEvents params)

theorem afterXfer_keepsChipSelect (i : Byte) (d : List Byte) (s : State) : KeepsChipSelect s (afterXfer params i d s) :=
  keepsChipSelect_of_replay (afterXfer_log params i d s) (afterXfer_pins params i d s)
    (csRelease_notMem_frameEvents params i d)

theorem Prepared.keepsChipSelect {s u : State} (h : Prepared s u) : KeepsChipSelect s u := by
  cases h with
  | same => exact keepsChipSelect_of_same rfl rfl
  | word h => exact encFtw_keepsChipSelect h
  | rate hz => exact keepsChipSelect_of_same rfl rfl

theorem registerWrite_keepsChipSelect {i : Instr} {r : ChipReg} {s t : State} (hr : i.chipReg? = some r)
    (h : exec i s = .next t) : KeepsChipSelect s t := by
  obtain ⟨u, d, hu, rfl⟩ := registerWrite_next hr h
  exact (hu.keepsChipSelect.trans (afterXfer_keepsChipSelect _ d u)).trans (setPc_keepsChipSelect _ _)

/-- VALIDATE appends diagnostics only, passed or fatal (44_sequencer.md R252). -/
theorem execValidate_keepsChipSelect {s t : State} (h : execValidate s = .next t) : KeepsChipSelect s t := by
  obtain ⟨l, f, -, -, ⟨-, -, -, rfl⟩ | ⟨c, pre, -, hpre, rfl⟩⟩ := execValidate_next h
  · by_cases hwarn : 160000000 < f
    · exact keepsChipSelect_of_records (es := [.diag .freqHigh]) (if_pos hwarn) rfl (by simp [csRelease])
    · exact keepsChipSelect_of_same (if_neg hwarn) rfl
  · refine KeepsChipSelect.trans ?_ (raiseFatal_keepsChipSelect c _)
    refine keepsChipSelect_of_records (es := pre) rfl rfl ?_
    rcases hpre with rfl | ⟨rfl, -⟩ <;> simp [csRelease]

theorem pause_keepsChipSelect (ms : ℕ) (s : State) : KeepsChipSelect s (s.pause ms) :=
  ⟨pauseEvents ms, trace_pause ms s, csRelease_notMem_pauseEvents params ms, fun h => by rwa [pause_pins]⟩

/-- Settles O56, operation by operation: besides INIT only the transport moves pins, and a frame drives chip-select to active. -/
theorem onlyInitReleasesChipSelect : Obligations.OnlyInitReleasesChipSelect := by
  intro i s t hinit hsf hfm h
  change KeepsChipSelect s t
  cases i with
  | wrCfr1 | wrArr | wrCfr2 | wrAsf | wrFtw0 | wrRam | wrRscw r => exact registerWrite_keepsChipSelect rfl h
  | encFtw f => exact encFtw_keepsChipSelect (execEncFtw_next h)
  | encAsfRel d | encAsfDbm p | encAsfInt n => cases h; exact keepsChipSelect_of_same rfl rfl
  | chkAsf =>
    obtain ⟨n, -, ⟨-, rfl⟩ | ⟨-, rfl⟩⟩ := execChkAsf_next h
    · exact keepsChipSelect_of_same rfl rfl
    · exact raiseFatal_keepsChipSelect .ampRange s
  | genRscw hz => obtain ⟨-, rfl⟩ := execGenRscw_next h; exact keepsChipSelect_of_same rfl rfl
  | genRamtab k =>
    obtain ⟨c, u, -, hu, rfl⟩ := execGenRamtab_next h
    exact (genRamtab_keepsChipSelect hu).trans (setPc_keepsChipSelect u 7)
  | xfer b d => obtain ⟨-, rfl⟩ := execXfer_next h; exact afterXfer_keepsChipSelect b d s
  | shiftByte b => cases h; exact shiftByte_keepsChipSelect b s
  | strobe => cases h; exact strobe_keepsChipSelect s
  | validate => exact execValidate_keepsChipSelect h
  | init => exact absurd rfl hinit
  | btone2 k =>
    obtain ⟨hz, -, ⟨-, rfl⟩ | ⟨-, rfl⟩⟩ := execBtone2_next h
    · exact setPc_keepsChipSelect s k
    · exact exitRun_keepsChipSelect 0 s
  | sleep ms => cases h; exact (pause_keepsChipSelect ms s).trans (setPc_keepsChipSelect _ _)
  | jmp k => cases h; exact setPc_keepsChipSelect s k
  | exit code => cases h; exact exitRun_keepsChipSelect code s
  | progSf => exact absurd rfl hsf
  | progFm => exact absurd rfl hfm

end Sys2Proof.Machine
end

section
/-! SUPPORT. The register-write operations (43_register_frames.md): each is its XFER from the state its preparation leaves, then
the next row; and the observer takes exactly one frame of the register's fixed length from it. -/

namespace Sys2Proof.Machine

/-! ## The preparation of a row (R230, R234) -/

/-- A preparation writes FTW and ARATE with their buffers, and appends verbose records; nothing else. -/
theorem Prepared.frame {s u : State} (h : Prepared s u) : ∃ new, (∀ e ∈ new, e.isVerbose = true) ∧
    u = { s with ftw := u.ftw, ftwbuf := u.ftwbuf, arate := u.arate, rscwbuf := u.rscwbuf, log := new ++ s.log } := by
  cases h with
  | same => exact ⟨[], List.forall_mem_nil _, rfl⟩
  | word h => obtain ⟨new, hverbose, -, rfl⟩ := encFtw_frame h; exact ⟨new, hverbose, rfl⟩
  | rate hz => exact ⟨[], List.forall_mem_nil _, rfl⟩

theorem Prepared.pins {s u : State} (h : Prepared s u) : u.pins = s.pins := by
  obtain ⟨new, -, hu⟩ := h.frame
  rw [hu]

theorem Prepared.warnHi {s u : State} (h : Prepared s u) : u.warnHi = s.warnHi := by
  obtain ⟨new, -, hu⟩ := h.frame
  rw [hu]

theorem Prepared.exitCode {s u : State} (h : Prepared s u) : u.exitCode = s.exitCode := by
  obtain ⟨new, -, hu⟩ := h.frame
  rw [hu]

theorem Prepared.trace {s u : State} (h : Prepared s u) :
    ∃ new, (∀ e ∈ new, e.isVerbose = true) ∧ u.trace = s.trace ++ new := by
  obtain ⟨new, hverbose, hu⟩ := h.frame
  have hlog : u.log = new.reverse.reverse ++ s.log := by rw [List.reverse_reverse, hu]
  exact ⟨new.reverse, fun e he => hverbose e (List.mem_reverse.mp he), trace_of_log hlog⟩

/-! ## Each row is its frame (R220, 10_state.md R31) -/

/-- A row that goes on from the XFER of its payload, after its preparation, is that XFER with SEQ_PC at the next row. -/
theorem row_is_its_frame {row : Instr} {i : Byte} {d : List Byte} {s u : State} (hu : Prepared s u)
    (hout : s.pins.allOut = true) (hrow : exec row s = .next (afterXfer params i d u).advance) :
    ∃ t, exec (.xfer i d) u = .next t ∧ exec row s = .next { t with seqPc := s.seqPc + 1 } := by
  have hadvance : (afterXfer params i d u).advance = { afterXfer params i d u with seqPc := s.seqPc + 1 } := by
    rw [State.advance, afterXfer_seqPc, hu.seqPc]
  exact ⟨_, exec_xfer_of_allOut i d (hu.pins ▸ hout), hrow.trans (congrArg _ hadvance)⟩

/-- The payload of WR_CFR1 as the statement writes it (R222). -/
theorem cfr1Payload_eq_ite (c : Config) (m : Mode) : cfr1Payload c m =
    if m = .frequencyModulatedTone then List.zipWith (· ||| ·) c.cfr1Base c.cfr1RamEn else c.cfr1Base := by
  cases m <;> rfl

/-- Settles O32: the payload of the mode. -/
theorem wrCfr1IsItsFrame : Obligations.WrCfr1IsItsFrame := by
  intro s m hm hout
  rw [← cfr1Payload_eq_ite]
  exact row_is_its_frame .same hout (execWrCfr1_ok hm hout)

/-- Settles O33: neither row reads a register. -/
theorem constantFrames : Obligations.ConstantFrames := fun _ hout =>
  ⟨row_is_its_frame .same hout (execWrArr_ok hout), row_is_its_frame .same hout (execWrCfr2_ok hout)⟩

/-- Settles O34: ASFBUF is read as it stands. -/
theorem wrAsfIsItsFrame : Obligations.WrAsfIsItsFrame := fun _ _ hb hout =>
  row_is_its_frame .same hout (execWrAsf_ok hb hout)

/-- Settles O35: on its domain ENC_FTW completes, for either DEBUG, and leaves the bytes of the word in FTWBUF. -/
theorem wrFtw0IsItsFrame : Obligations.WrFtw0IsItsFrame := by
  intro s f hf hd h0 h1 hout
  obtain ⟨u, hu⟩ := encFtw_ok hd h0 h1
  have hbuf : u.ftwbuf = some (be4 (BitVec.ofInt 32 (wordOf f))) := by
    obtain ⟨new, -, -, rfl⟩ := encFtw_frame hu
    rfl
  obtain ⟨t, hxfer, hrow⟩ := row_is_its_frame (row := .wrFtw0) (.word hu) hout (execWrFtw0_ok hf hu hout)
  exact ⟨u, _, t, congrArg (finish s) hu, hbuf, by rw [be4_toList]; exact hxfer, hrow⟩

/-- A RAMBUF whose bytes are all written is read as they stand (20_memory.md R62). -/
theorem ramRead_of_bytes {s : State} {bs : List Byte} (hlen : bs.length = 400)
    (hbs : ∀ a, a < 400 → memGet s.rambuf a = bs[a]?) : s.ramRead 0 400 = .ok bs := by
  have hread : memGetBytes s.rambuf 0 bs.length = .ok bs := memGetBytes_ok fun k hk => by
    rw [Nat.zero_add, hbs k (hlen ▸ hk), List.getElem?_eq_getElem hk]
  rw [State.ramRead, if_neg (by decide), ← hlen, hread]

/-- Settles O36: the one read of RAMBUF is the whole table. -/
theorem wrRamIsItsFrame : Obligations.WrRamIsItsFrame := fun _ _ hlen hbs hout =>
  row_is_its_frame .same hout (execWrRam_ok (ramRead_of_bytes hlen hbs) hout)

/-- Settles O37: GEN_RSCW leaves the bytes of the control word in RSCWBUF. -/
theorem wrRscwIsItsFrame : Obligations.WrRscwIsItsFrame := by
  intro s r hz hr hadmitted hout
  obtain ⟨t, hxfer, hrow⟩ := row_is_its_frame (row := .wrRscw r) (.rate hz) hout (execWrRscw_ok hr hadmitted hout)
  have hnonneg : 0 ≤ hz := hadmitted.1
  exact ⟨s.withRate hz, _, t, exec_genRscw_admitted s hadmitted, rfl, by rw [rscwBytes_toList hnonneg]; exact hxfer, hrow⟩

/-! ## One frame of the register's length (R220, 20_memory.md R67, 30_encoding.md R99) -/

/-- The observer passes over a record of verbose tracing (20_memory.md R66). -/
theorem event_of_isVerbose (c : Config) (o : Observer) {e : Event} (h : e.isVerbose = true) : o.event c e = o := by
  cases e with
  | trace text => rfl
  | dir p | drive p l | sleep ms | diag k | exit code => cases h

theorem observerReplay_of_verbose (c : Config) (o : Observer) {es : List Event} (h : ∀ e ∈ es, e.isVerbose = true) :
    o.replay c es = o := by
  induction es with
  | nil => rfl
  | cons e rest ih =>
    obtain ⟨he, hrest⟩ := List.forall_mem_cons.mp h
    rw [observerReplay_cons, event_of_isVerbose c o he, ih hrest]

/-- A preparation sends nothing. -/
theorem Prepared.observe {s u : State} (h : Prepared s u) : observe params u.trace = observe params s.trace := by
  obtain ⟨new, hverbose, htrace⟩ := h.trace
  rw [htrace, observe_append, observerReplay_of_verbose params _ hverbose]

theorem Prepared.frames {s u : State} (h : Prepared s u) : u.frames = s.frames := by
  simp only [State.frames, framesOf, h.observe]

theorem Prepared.linkReady {s u : State} (h : Prepared s u) : u.linkReady = s.linkReady := by
  have hlatches : Pins.atReset.replay u.trace = Pins.atReset.replay s.trace := by
    rw [← observe_pins params, ← observe_pins params, h.observe]
  simp only [State.linkReady, State.pinsFollowTrace, h.pins, hlatches, h.observe]

theorem advance_frames (s : State) : s.advance.frames = s.frames := rfl

theorem advance_linkReady (s : State) : s.advance.linkReady = s.linkReady := rfl

theorem cfr1Payload_length (m : Mode) : (cfr1Payload params m).length = params.lenCfr1 := by
  cases m <;> rfl

theorem rscwPayload_length (t : ℚ) : (rscwPayload t).length = params.lenRscw := by
  rw [rscwPayload, List.length_append, Vector.length_toList]
  rfl

/-- `registerWrite_next` with the length of the payload: the register's (R99), whatever the buffers hold. -/
theorem registerWrite_payload {i : Instr} {r : ChipReg} {s t : State} (hr : i.chipReg? = some r) (h : exec i s = .next t) :
    ∃ u d, Prepared s u ∧ d.length = r.len params ∧ t = (afterXfer params (r.addr params) d u).advance := by
  cases i <;> cases hr
  case wrCfr1 =>
    obtain ⟨m, -, -, ht⟩ := execWrCfr1_next h
    exact ⟨s, _, .same, cfr1Payload_length m, ht⟩
  case wrArr => exact ⟨s, _, .same, rfl, (execWrArr_next h).2⟩
  case wrCfr2 => exact ⟨s, _, .same, rfl, (execWrCfr2_next h).2⟩
  case wrAsf =>
    obtain ⟨b, -, -, ht⟩ := execWrAsf_next h
    exact ⟨s, _, .same, b.length_toList, ht⟩
  case wrFtw0 =>
    obtain ⟨f, u, -, hu, -, ht⟩ := execWrFtw0_next h
    exact ⟨u, _, .word hu, wordBytes_length _, ht⟩
  case wrRam =>
    obtain ⟨bs, hbs, -, ht⟩ := execWrRam_next h
    exact ⟨s, _, .same, ramRead_length hbs, ht⟩
  case wrRscw =>
    obtain ⟨hz, -, -, -, ht⟩ := execWrRscw_next h
    exact ⟨_, _, .rate hz, rscwPayload_length hz, ht⟩

/-- Settles O38: the preparation leaves FRAMES, the link and the flags, and the one XFER from there commits one frame (O31). -/
theorem oneFramePerRegisterWrite : Obligations.OneFramePerRegisterWrite := by
  intro s t i r hr hlink h
  obtain ⟨u, d, hu, hlen, rfl⟩ := registerWrite_payload hr h
  have hready : u.linkReady = true := hu.linkReady.trans hlink
  refine ⟨d, ?frames, hlen, ?linkReady, ?halted, ?warnHi, ?exitCode, ?seqPc⟩
  case frames => rw [advance_frames, frames_afterXfer _ d hready, hu.frames]
  case linkReady => rw [advance_linkReady, linkReady_afterXfer _ d hready]
  case halted => rw [advance_halted, afterXfer_halted, hu.halted]
  case warnHi => rw [advance_warnHi, afterXfer_warnHi, hu.warnHi]
  case exitCode => rw [advance_exitCode, afterXfer_exitCode, hu.exitCode]
  case seqPc => rw [advance_seqPc, afterXfer_seqPc, hu.seqPc]

end Sys2Proof.Machine
end

section
/-! SUPPORT. The sequencer's own operations (44_sequencer.md): the two outcomes of VALIDATE, what INIT does on the pins and to the
observer (20_memory.md R66), and the small operations SLEEP, JMP, EXIT and BTONE2. -/

namespace Sys2Proof.Machine

/-- Settles O6. -/
theorem stepRunsProgramRow : Obligations.StepRunsProgramRow := fun _ _ _ => step_of_row

/-! ## VALIDATE (R252) -/

theorem exec_validate_passes {s : State} {f : ℚ} {l : LevelRequest} {raw : ℕ} (hf : s.freq = some f)
    (hl : s.level = some l) (hraw : levelGives l raw) (h0 : 0 ≤ f) (h1 : f ≤ 200000000) (h2 : raw ≤ 16383) :
    exec .validate s = .next (validated f raw s) := by
  obtain rfl := levelGives_iff.mp hraw
  obtain ⟨hpass, -⟩ := validate_eq hl hf
  exact congrArg (finish s) (hpass ⟨h0, h1, h2⟩)

/-- Settles O39. -/
theorem validatePasses : Obligations.ValidatePasses := fun _ _ _ _ => exec_validate_passes

/-- Settles O40: the cause raised is one that holds; WARN_HI and the counter of free values are as `raiseFatal` leaves them. -/
theorem validateFatal : Obligations.ValidateFatal := by
  intro s f l raw hf hl hraw hfail
  obtain rfl := levelGives_iff.mp hraw
  obtain ⟨-, hfatal⟩ := validate_eq hl hf
  obtain ⟨c, pre, ⟨hfreq, hamp⟩, hpre, heq⟩ := hfatal hfail
  exact ⟨c, pre, _, _, hfreq, hamp, hpre, congrArg (finish s) heq⟩

/-! ## INIT (R254, R255) -/

theorem exec_init (s : State) : exec .init s = .next (initPins params s) := rfl

theorem initPins_trace (s : State) : (initPins params s).trace = s.trace ++ initEvents :=
  trace_of_log (by rw [initPins_eq])

/-- Settles O41: the five `Dir` events, then the order of `initEvents`. -/
theorem initResetOrder : Obligations.InitResetOrder := by
  intro s
  refine ⟨_, [.dir .reset, .dir .cs, .dir .sclk, .dir .sdio, .dir .ioupdate], pauseEvents params.tResetMs, exec_init s,
    initPins_trace s, by simp, fun e he => ?_⟩
  unfold pauseEvents at he
  split at he
  · cases he
  · exact ⟨_, List.mem_singleton.mp he⟩

/-- The pins after INIT: outputs, at their idle levels; SDIO keeps its level (D18). -/
theorem replay_init_pins (ps : Pins) : ps.replay initEvents =
    { reset := ⟨.output, .ofBool (!params.resetActive)⟩, cs := ⟨.output, .ofBool (!params.csActive)⟩
      sclk := ⟨.output, .low⟩, sdio := ⟨.output, ps.sdio.level⟩, ioupdate := ⟨.output, .low⟩ } := by
  unfold initEvents pauseEvents
  split <;> rfl

/-- The observer after INIT (R66): what it had collected is dropped, and a pulse in progress is ended. -/
theorem replay_initEvents (o : Observer) : o.replay params initEvents =
    { pins := o.pins.replay initEvents, acc := 0, count := 0, bytes := []
      staged := if o.pins.ioupdate.level = .high then none else o.staged
      done := if o.pins.ioupdate.level = .high then o.staged.toList ++ o.done else o.done } := by
  by_cases hio : o.pins.ioupdate.level = .high <;> unfold initEvents pauseEvents <;> split <;>
    simp [Observer.event, Pins.event, Pins.set, Pins.get, hio]

theorem pinsFollowTrace_iff (s : State) : s.pinsFollowTrace = true ↔ s.pins = Pins.atReset.replay s.trace := by
  simp only [State.pinsFollowTrace, beq_iff_eq]

/-- INIT makes the link ready, whatever the observer had collected. -/
theorem linkReady_initPins {s : State} (h : s.pinsFollowTrace = true) : (initPins params s).linkReady = true := by
  have hpins : (initPins params s).pins = s.pins.replay initEvents := by rw [initPins_eq]
  have hstaged : (observe params s.trace).pins.ioupdate.level ≠ .high → (observe params s.trace).staged = none :=
    observe_pulseOnlyHigh params s.trace
  refine (linkReady_iff _).mpr ⟨?allOut, ?sclk, ?ioupdate, ?latches, ?idle⟩
  case allOut => rw [hpins, replay_init_pins]; rfl
  case sclk | ioupdate => rw [hpins, replay_init_pins]
  case latches => rw [hpins, initPins_trace, replay_append, ← (pinsFollowTrace_iff s).mp h]
  case idle =>
    rw [initPins_trace, observe_append, replay_initEvents]
    simpa [Observer.idle] using hstaged

/-- INIT commits no frame where no pulse is in progress. -/
theorem frames_initPins {s : State} (h : (observe params s.trace).staged = none) :
    (initPins params s).frames = s.frames := by
  simp only [State.frames, framesOf, initPins_trace, observe_append, replay_initEvents, h, Option.toList_none,
    List.nil_append, ite_self]

/-- Settles O42. (`initPins` is the model's function.) -/
theorem execInitPins : Obligations.InitPins := by
  intro s
  have hpins : (initPins params s).pins = s.pins.replay initEvents := by rw [initPins_eq]
  rw [replay_init_pins] at hpins
  refine ⟨initPins params s, exec_init s, ?allOut, ?reset, ?cs, ?ioupdate, ?sclk, ?sdio, rfl, ?frame,
    fun h => ⟨linkReady_initPins h, frames_initPins⟩⟩
  case allOut => rw [hpins]; rfl
  case reset | cs | ioupdate | sclk | sdio => rw [hpins]
  case frame => rw [initPins_eq]

/-! ## BTONE2, SLEEP, JMP and EXIT (R259, R261, R262) -/

theorem exec_btone2 {s : State} {hz : ℚ} (k : StepIndex) (h : s.tone2 = some hz) :
    exec (.btone2 k) s = .next (if 0 < hz then { s with seqPc := k } else exitRun 0 s) := by
  have hread : s.readTone2 = .ok hz := readReg_some .tone2 h
  have hbranch : btone2 k s = .ok (if 0 < hz then { s with seqPc := k } else exitRun 0 s) := by
    rw [btone2, hread, ok_bind]
    rfl
  exact congrArg (finish s) hbranch

/-- Settles O43. -/
theorem btone2Branches : Obligations.Btone2Branches := by
  intro s k hz h
  rw [exec_btone2 k h]
  exact ⟨fun hpos => by rw [if_pos hpos], fun hneg => by rw [if_neg (not_lt.mpr hneg)]; rfl⟩

/-- A pause as one update of TRACE. -/
theorem pause_eq (ms : ℕ) (s : State) :
    s.pause ms = { s with log := if ms = 0 then s.log else .sleep ms :: s.log } := by
  unfold State.pause
  split <;> rfl

/-- Settles O44. -/
theorem sleepJmpExit : Obligations.SleepJmpExit := by
  intro s ms c k
  refine ⟨?_, rfl, rfl⟩
  change Host.Outcome.next (s.pause ms).advance = _
  rw [pause_eq]
  rfl

end Sys2Proof.Machine
end

section
/-! SUPPORT. Rows that go on (44_sequencer.md R257 to R260): what such a row keeps, which frames it sends, and how rows chain; the
tone loop as a chain without end. -/

namespace Sys2Proof.Machine

/-! ## Records that move no pin -/

/-- An event that touches no pin (10_state.md R36). -/
def Event.isRecord : Event → Bool
  | .sleep _ | .diag _ | .trace _ | .exit _ => true
  | .dir _ | .drive _ _ => false

theorem isRecord_of_isVerbose {e : Event} (h : e.isVerbose = true) : e.isRecord = true := by
  cases e with
  | trace text => rfl
  | dir p | drive p l | sleep ms | diag k | exit code => cases h

/-- The observer passes over records (20_memory.md R66). -/
theorem observerReplay_of_records (c : Config) (o : Observer) {es : List Event} (h : ∀ e ∈ es, e.isRecord = true) :
    o.replay c es = o := by
  induction es with
  | nil => rfl
  | cons e rest ih =>
    obtain ⟨he, hrest⟩ := List.forall_mem_cons.mp h
    have hsame : o.event c e = o := by
      cases e with
      | sleep ms | diag k | trace text | exit code => rfl
      | dir p | drive p l => cases he
    rw [observerReplay_cons, hsame, ih hrest]

theorem observe_of_records {s t : State} {new : List Event} (hlog : t.log = new ++ s.log)
    (hnew : ∀ e ∈ new, e.isRecord = true) : observe params t.trace = observe params s.trace := by
  have htrace : t.trace = s.trace ++ new.reverse := trace_of_log (by rw [hlog, List.reverse_reverse])
  rw [htrace, observe_append, observerReplay_of_records params _ fun e he => hnew e (List.mem_reverse.mp he)]

theorem frames_of_observe {s t : State} (h : observe params t.trace = observe params s.trace) : t.frames = s.frames := by
  simp only [State.frames, framesOf, h]

theorem pinsFollowTrace_of_observe {s t : State} (h : observe params t.trace = observe params s.trace)
    (hpins : t.pins = s.pins) : t.pinsFollowTrace = s.pinsFollowTrace := by
  simp only [State.pinsFollowTrace, ← observe_pins params, h, hpins]

theorem linkReady_of_observe {s t : State} (h : observe params t.trace = observe params s.trace)
    (hpins : t.pins = s.pins) : t.linkReady = s.linkReady := by
  simp only [State.linkReady, pinsFollowTrace_of_observe h hpins, hpins, h]

theorem operands_eq {s t : State} (h : t.operands = s.operands) :
    t.mode = s.mode ∧ t.freq = s.freq ∧ t.tone1 = s.tone1 ∧ t.tone2 = s.tone2 ∧ t.level = s.level ∧ t.debug = s.debug := by
  simpa only [State.operands, Prod.mk.injEq] using h

/-! ## What rows that go on do -/

/-- The events of a frame. -/
def Frame.events (f : Frame) : List Event := frameEvents params f.instr f.payload

/-- From `s` to `t` the frames `fs` are sent and the run goes on as it was: the operands, ASFBUF and the flags of the run's end are
kept, no `Exit` record is written, the pins are as the frames drive them; and where the link is ready, the observer takes exactly
`fs` and the link is ready again. -/
structure Sends (fs : List Frame) (s t : State) : Prop where
  operands : t.operands = s.operands
  asfbuf : t.asfbuf = s.asfbuf
  halted : t.halted = s.halted
  exitCode : t.exitCode = s.exitCode
  log : ∃ new, t.log = new ++ s.log ∧ ∀ e ∈ new, e.isExit = false
  pins : t.pins = s.pins.replay (fs.flatMap Frame.events)
  observed : s.linkReady = true → t.linkReady = true ∧ t.frames = s.frames ++ fs

theorem Sends.refl (s : State) : Sends [] s s where
  operands := rfl
  asfbuf := rfl
  halted := rfl
  exitCode := rfl
  log := ⟨[], rfl, List.forall_mem_nil _⟩
  pins := rfl
  observed := fun h => ⟨h, (List.append_nil _).symm⟩

theorem Sends.trans {fs gs : List Frame} {s t u : State} (h : Sends fs s t) (k : Sends gs t u) :
    Sends (fs ++ gs) s u where
  operands := k.operands.trans h.operands
  asfbuf := k.asfbuf.trans h.asfbuf
  halted := k.halted.trans h.halted
  exitCode := k.exitCode.trans h.exitCode
  log := by
    obtain ⟨es, hes, hesExit⟩ := h.log
    obtain ⟨ds, hds, hdsExit⟩ := k.log
    exact ⟨ds ++ es, by rw [hds, hes, List.append_assoc], List.forall_mem_append.mpr ⟨hdsExit, hesExit⟩⟩
  pins := by rw [k.pins, h.pins, List.flatMap_append, replay_append]
  observed := fun hready => by
    obtain ⟨htReady, htFrames⟩ := h.observed hready
    obtain ⟨huReady, huFrames⟩ := k.observed htReady
    exact ⟨huReady, by rw [huFrames, htFrames, List.append_assoc]⟩

theorem Sends.allOut {fs : List Frame} {s t : State} (h : Sends fs s t) (hout : s.pins.allOut = true) :
    t.pins.allOut = true := by
  rw [h.pins]
  exact allOut_replay _ hout

theorem Sends.tone {fs : List Frame} {s t : State} (h : Sends fs s t) (r : ToneReg) : t.tone r = s.tone r := by
  obtain ⟨-, -, h1, h2, -, -⟩ := operands_eq h.operands
  cases r with
  | tone1 => exact h1
  | tone2 => exact h2

/-- Records that neither move a pin nor end the run send nothing. -/
theorem Sends.of_records {s t : State} {new : List Event} (hlog : t.log = new ++ s.log)
    (hrecord : ∀ e ∈ new, e.isRecord = true) (hexit : ∀ e ∈ new, e.isExit = false) (hpins : t.pins = s.pins)
    (hoperands : t.operands = s.operands) (hasfbuf : t.asfbuf = s.asfbuf) (hhalted : t.halted = s.halted)
    (hexitCode : t.exitCode = s.exitCode) : Sends [] s t where
  operands := hoperands
  asfbuf := hasfbuf
  halted := hhalted
  exitCode := hexitCode
  log := ⟨new, hlog, hexit⟩
  pins := hpins
  observed := fun hready => by
    have hobs := observe_of_records hlog hrecord
    exact ⟨(linkReady_of_observe hobs hpins).trans hready, by rw [frames_of_observe hobs, List.append_nil]⟩

/-- A register-write row sends its one frame (43_register_frames.md R220). -/
theorem Sends.of_frame {s u : State} (i : Byte) (d : List Byte) (hu : Prepared s u) :
    Sends [⟨i, d⟩] s (afterXfer params i d u).advance where
  operands := (afterXfer_evolves params i d u).operands.trans hu.evolves.operands
  asfbuf := by
    obtain ⟨new, -, hframe⟩ := hu.frame
    rw [advance_asfbuf, afterXfer_asfbuf, hframe]
  halted := by rw [advance_halted, afterXfer_halted, hu.halted]
  exitCode := by rw [advance_exitCode, afterXfer_exitCode, hu.exitCode]
  log := by
    obtain ⟨new, hverbose, hframe⟩ := hu.frame
    have hlog : u.log = new ++ s.log := by rw [hframe]
    refine ⟨(frameEvents params i d).reverse ++ new, by rw [advance_log, afterXfer_log, hlog, List.append_assoc],
      List.forall_mem_append.mpr ⟨fun e he => ?_, fun e he => isExit_of_isVerbose (hverbose e he)⟩⟩
    exact frameEvents_isExit params i d e (List.mem_reverse.mp he)
  pins := by rw [advance_pins, afterXfer_pins, hu.pins, List.flatMap_singleton, Frame.events]
  observed := fun hready => by
    have huReady : u.linkReady = true := hu.linkReady.trans hready
    exact ⟨by rw [advance_linkReady, linkReady_afterXfer i d huReady],
      by rw [advance_frames, frames_afterXfer i d huReady, hu.frames]⟩

/-! ## Rows in a chain -/

/-- `rows`, performed from `s` in order, all go on and leave `t`, having sent `fs`. -/
structure Runs (rows : List Instr) (fs : List Frame) (s t : State) : Prop where
  performs : ∀ rest, runRows ((rows ++ rest).map exec) s = runRows (rest.map exec) t
  seqPc : t.seqPc = rows.foldl rowAfter s.seqPc
  sends : Sends fs s t

theorem Runs.trans {rows rows' : List Instr} {fs gs : List Frame} {s t u : State} (h : Runs rows fs s t)
    (k : Runs rows' gs t u) : Runs (rows ++ rows') (fs ++ gs) s u where
  performs := fun rest => by rw [List.append_assoc, h.performs, k.performs]
  seqPc := by rw [List.foldl_append, ← h.seqPc, k.seqPc]
  sends := h.sends.trans k.sends

theorem runRows_of_next {i : Instr} {s t : State} (h : exec i s = .next t) (hrun : t.halted = false)
    (rest : List Instr) : runRows ((i :: rest).map exec) s = runRows (rest.map exec) t := by
  simp only [List.map_cons, runRows, h, hrun, Bool.false_eq_true, if_false]

theorem runRows_of_end {i : Instr} {s t : State} (h : exec i s = .next t) (hend : t.halted = true)
    (rest : List Instr) : runRows ((i :: rest).map exec) s = .next t := by
  simp only [List.map_cons, runRows, h, hend, if_true]

theorem Runs.of_row {i : Instr} {fs : List Frame} {s t : State} (hrun : s.halted = false) (h : exec i s = .next t)
    (hpc : t.seqPc = rowAfter s.seqPc i) (hsends : Sends fs s t) : Runs [i] fs s t where
  performs := runRows_of_next h (hsends.halted.trans hrun)
  seqPc := hpc
  sends := hsends

/-- The one row of a chain of one is the operation itself. -/
theorem Runs.exec_eq {i : Instr} {fs : List Frame} {s t : State} (h : Runs [i] fs s t) : exec i s = .next t := by
  obtain ⟨u, hu, rfl | hnil⟩ := runRows_cons_next (h.performs [])
  · exact hu
  · cases hnil
    exact hu

theorem rowAfter_registerWrite {i : Instr} {r : ChipReg} (hr : i.chipReg? = some r) (pc : StepIndex) :
    rowAfter pc i = pc + 1 := by
  cases i <;> cases hr <;> rfl

theorem runs_registerWrite {i : Instr} {r : ChipReg} {a : Byte} {d : List Byte} {s u : State} (hr : i.chipReg? = some r)
    (hrun : s.halted = false) (hu : Prepared s u) (h : exec i s = .next (afterXfer params a d u).advance) :
    Runs [i] [⟨a, d⟩] s (afterXfer params a d u).advance := by
  refine .of_row hrun h ?_ (.of_frame a d hu)
  rw [advance_seqPc, afterXfer_seqPc, hu.seqPc, rowAfter_registerWrite hr]

theorem runs_wrRscw {r : ToneReg} {hz : ℚ} {s : State} (hrun : s.halted = false) (hout : s.pins.allOut = true)
    (hr : s.tone r = some hz) (hadmitted : toneAdmitted hz) :
    ∃ t, Runs [.wrRscw r] [⟨params.addrRscw, rscwPayload hz⟩] s t :=
  ⟨_, runs_registerWrite rfl hrun (.rate hz) (execWrRscw_ok hr hadmitted hout)⟩

theorem runs_sleep (ms : ℕ) {s : State} (hrun : s.halted = false) : Runs [.sleep ms] [] s (s.pause ms).advance := by
  refine .of_row hrun rfl (by rw [advance_seqPc, pause_seqPc]; rfl) ?_
  rw [pause_eq]
  by_cases hms : ms = 0
  · exact .of_records (new := []) (if_pos hms) (List.forall_mem_nil _) (List.forall_mem_nil _) rfl rfl rfl rfl rfl
  · exact .of_records (new := [.sleep ms]) (if_neg hms) (by simp [Event.isRecord]) (by simp [Event.isExit])
      rfl rfl rfl rfl rfl

theorem sends_setPc (s : State) (pc : StepIndex) : Sends [] s { s with seqPc := pc } :=
  .of_records (new := []) rfl (List.forall_mem_nil _) (List.forall_mem_nil _) rfl rfl rfl rfl rfl

theorem runs_jmp (k : StepIndex) {s : State} (hrun : s.halted = false) : Runs [.jmp k] [] s { s with seqPc := k } :=
  .of_row hrun rfl rfl (sends_setPc s k)

/-! ## The tone loop (R260) -/

/-- The rows 10 to 14 of PROG_FM (10_state.md R30). -/
def toneLoopRows : List Instr :=
  [.sleep params.tToggleMs, .wrRscw .tone2, .sleep params.tToggleMs, .wrRscw .tone1, .jmp 10]

/-- One pass, from any row: where it goes on is `JMP`'s target. -/
theorem runs_toneLoopRows {s : State} {t1 t2 : ℚ} (hrun : s.halted = false) (hout : s.pins.allOut = true)
    (h1 : s.tone1 = some t1) (h2 : s.tone2 = some t2) (ha1 : toneAdmitted t1) (ha2 : toneAdmitted t2) :
    ∃ t, Runs toneLoopRows [⟨params.addrRscw, rscwPayload t2⟩, ⟨params.addrRscw, rscwPayload t1⟩] s t := by
  have first := runs_sleep params.tToggleMs hrun
  obtain ⟨u, hu⟩ := runs_wrRscw (r := .tone2) (first.sends.halted.trans hrun) (first.sends.allOut hout)
    ((first.sends.tone .tone2).trans h2) ha2
  have second := first.trans hu
  have third := second.trans (runs_sleep params.tToggleMs (second.sends.halted.trans hrun))
  obtain ⟨v, hv⟩ := runs_wrRscw (r := .tone1) (third.sends.halted.trans hrun) (third.sends.allOut hout)
    ((third.sends.tone .tone1).trans h1) ha1
  have fourth := third.trans hv
  exact ⟨_, fourth.trans (runs_jmp 10 (fourth.sends.halted.trans hrun))⟩

theorem rowsFrom_toneLoop : RowsFrom .frequencyModulatedTone 10 toneLoopRows := by
  simp [RowsFrom, toneLoopRows, rowAfter, program]

/-- Settles O49: the five rows are five steps. -/
theorem toneLoopPass : Obligations.ToneLoopPass := by
  intro s t1 t2 hm hpc hrun hlink h1 h2 ha1 ha2
  obtain ⟨hout, -⟩ := (linkReady_iff s).mp hlink
  obtain ⟨t, ht⟩ := runs_toneLoopRows hrun hout h1 h2 ha1 ha2
  obtain ⟨hready, hframes⟩ := ht.sends.observed hlink
  have hrows : runToHalt 5 s = .next t :=
    (runRows_eq_runToHalt (hpc ▸ rowsFrom_toneLoop) hm hrun).symm.trans (ht.performs [])
  exact ⟨t, hrows, ht.seqPc.trans (by rw [hpc]; rfl), ht.sends.halted.trans hrun, hready, ht.sends.operands, hframes⟩

/-- In the loop the row at SEQ_PC goes on at a row of the loop. -/
theorem toneLoop_row {s : State} (h : s.inToneLoop) : ∃ i fs t,
    program params .frequencyModulatedTone s.seqPc = some i ∧ Runs [i] fs s t ∧
      10 ≤ (rowAfter s.seqPc i).toNat ∧ (rowAfter s.seqPc i).toNat ≤ 14 := by
  obtain ⟨-, hlow, hhigh, hrun, hout, t1, t2, h1, h2, ha1, ha2⟩ := h
  have hpc : s.seqPc = 10 ∨ s.seqPc = 11 ∨ s.seqPc = 12 ∨ s.seqPc = 13 ∨ s.seqPc = 14 := by bv_omega
  rcases hpc with hpc | hpc | hpc | hpc | hpc <;> rw [hpc]
  · exact ⟨_, _, _, rfl, runs_sleep params.tToggleMs hrun, by decide⟩
  · obtain ⟨t, ht⟩ := runs_wrRscw (r := .tone2) hrun hout h2 ha2
    exact ⟨_, _, t, rfl, ht, by decide⟩
  · exact ⟨_, _, _, rfl, runs_sleep params.tToggleMs hrun, by decide⟩
  · obtain ⟨t, ht⟩ := runs_wrRscw (r := .tone1) hrun hout h1 ha1
    exact ⟨_, _, t, rfl, ht, by decide⟩
  · exact ⟨_, _, _, rfl, runs_jmp 10 hrun, by decide⟩

theorem Sends.inToneLoop {fs : List Frame} {s t : State} (h : Sends fs s t) (hs : s.inToneLoop)
    (hlow : 10 ≤ t.seqPc.toNat) (hhigh : t.seqPc.toNat ≤ 14) : t.inToneLoop := by
  obtain ⟨hm, -, -, hrun, hout, t1, t2, h1, h2, hadmitted⟩ := hs
  obtain ⟨hmode, -, htone1, htone2, -⟩ := operands_eq h.operands
  exact ⟨hmode.trans hm, hlow, hhigh, h.halted.trans hrun, h.allOut hout, t1, t2, htone1.trans h1, htone2.trans h2,
    hadmitted⟩

theorem toneLoop_step {s : State} (h : s.inToneLoop) : ∃ fs t, step s = .next t ∧ Sends fs s t ∧ t.inToneLoop := by
  obtain ⟨i, fs, t, hi, hruns, hlow, hhigh⟩ := toneLoop_row h
  have hpc : t.seqPc = rowAfter s.seqPc i := hruns.seqPc
  have ⟨hm, _, _, hrun, _⟩ := h
  exact ⟨fs, t, (step_of_row hrun hm hi).trans hruns.exec_eq, hruns.sends,
    hruns.sends.inToneLoop h (hpc ▸ hlow) (hpc ▸ hhigh)⟩

/-- Settles O59. -/
theorem toneLoopStep : Obligations.ToneLoopStep := by
  intro s h
  obtain ⟨fs, t, hstep, hsends, ht⟩ := toneLoop_step h
  exact ⟨t, hstep, ht, hsends.exitCode⟩

theorem toneLoop_run (n : ℕ) {s : State} (h : s.inToneLoop) :
    ∃ fs t, runToHalt n s = .next t ∧ Sends fs s t ∧ t.inToneLoop := by
  induction n generalizing s with
  | zero => exact ⟨[], s, rfl, .refl s, h⟩
  | succ n ih =>
    obtain ⟨fs, t, hstep, hst, ht⟩ := toneLoop_step h
    obtain ⟨gs, u, hrest, htu, hu⟩ := ih ht
    obtain ⟨-, -, -, hrun, -⟩ := h
    exact ⟨fs ++ gs, u, (runToHalt_of_next hrun hstep n).trans hrest, hst.trans htu, hu⟩

/-- Settles O50: the loop invariant over any number of steps; no row of the loop writes an `Exit` record. -/
theorem toneLoopNeverEnds : Obligations.ToneLoopNeverEnds := by
  intro s t1 t2 hm hpc hrun hout h1 h2 ha1 ha2
  have hloop : s.inToneLoop :=
    ⟨hm, by rw [hpc]; decide, by rw [hpc]; decide, hrun, hout, t1, t2, h1, h2, ha1, ha2⟩
  constructor
  · intro n
    obtain ⟨fs, t, hn, hsends, -⟩ := toneLoop_run n hloop
    exact ⟨t, hn, hsends.halted.trans hrun, hsends.exitCode⟩
  · rintro cut ⟨n, t, hn, hcut⟩ hs c hmem
    obtain ⟨fs, u, hu, hsends, -⟩ := toneLoop_run n hloop
    obtain rfl : t = u := by rw [hn] at hu; cases hu; rfl
    obtain ⟨new, hlog, hnew⟩ := hsends.log
    have hlogged : Event.exit c ∈ new ++ s.log := hlog ▸ List.mem_reverse.mp (hcut.subset hmem)
    rcases List.mem_append.mp hlogged with hin | hin
    · exact absurd (hnew _ hin) (by simp [Event.isExit])
    · exact hs c (List.mem_reverse.mpr hin)

end Sys2Proof.Machine
end

section
/-! SUPPORT. The runs of the two programs from the state the host loads (44_sequencer.md R257 to R260, R263): the two rows before
the first frame, the rows both programs share, and what each sends after them. -/

namespace Sys2Proof.Machine

/-! ## The pins after a run of frames (R263) -/

theorem reset_replay_frames (fs : List Frame) (ps : Pins) : (ps.replay (fs.flatMap Frame.events)).reset = ps.reset := by
  induction fs generalizing ps with
  | nil => rfl
  | cons f rest ih => rw [List.flatMap_cons, replay_append, ih, Frame.events, replay_frame_pins]

/-- The last bit of a frame on the wire. -/
def Frame.lastBit (f : Frame) : Bool := ((f.instr :: f.payload).getLast (List.cons_ne_nil _ _)).getLsbD 0

/-- The levels rows leave whose last frame is `f`. -/
theorem Sends.last_levels {fs : List Frame} {f : Frame} {s t : State} (h : Sends fs s t) (hf : fs.getLast? = some f) :
    t.pins.reset = s.pins.reset ∧ t.pins.cs.level = .ofBool params.csActive ∧ t.pins.sclk.level = .low ∧
      t.pins.ioupdate.level = .low ∧ t.pins.sdio.level = .ofBool f.lastBit := by
  obtain ⟨front, rfl⟩ := List.getLast?_eq_some_iff.mp hf
  have hpins : t.pins = (s.pins.replay (front.flatMap Frame.events)).replay f.events := by
    rw [h.pins, List.flatMap_append, replay_append, List.flatMap_singleton]
  rw [Frame.events, replay_frame_pins, reset_replay_frames] at hpins
  rw [hpins]
  exact ⟨rfl, rfl, rfl, rfl, rfl⟩

theorem frames_exitRun (code : ℕ) (s : State) : (exitRun code s).frames = s.frames :=
  frames_of_observe (observe_of_records (new := [.exit code]) rfl (by simp [Event.isRecord]))

theorem isFinal_exitRun (s : State) : (exitRun 0 s).isFinal = true := rfl

/-! ## The rows before the first frame -/

theorem observe_validated (f : ℚ) (raw : ℕ) (s : State) :
    observe params (validated f raw s).trace = observe params s.trace := by
  by_cases hwarn : 160000000 < f
  · exact observe_of_records (new := [.diag .freqHigh]) (if_pos hwarn) (by simp [Event.isRecord])
  · exact observe_of_records (new := []) (if_neg hwarn) (List.forall_mem_nil _)

/-- `u` is what VALIDATE and INIT make of the loaded state `s`, whose amplitude is `raw`; the rows after them run from `u`. -/
structure Initialized (s : State) (raw : ℕ) (u : State) : Prop where
  performs : ∀ rest, runRows ((.validate :: .init :: rest).map exec) s = runRows (rest.map exec) u
  linkReady : u.linkReady = true
  frames : u.frames = []
  reset : u.pins.reset.level = .ofBool (!params.resetActive)
  halted : u.halted = false
  exitCode : u.exitCode = none
  operands : u.operands = s.operands
  asfbuf : u.asfbuf = some #v[BitVec.ofNat 8 (raw / 256), BitVec.ofNat 8 raw]
  seqPc : u.seqPc = 2

theorem start_initialized {r : Request} {f : ℚ} {l : LevelRequest} {raw : ℕ} (hf : r.freq = some f) (hl : r.level = some l)
    (hraw : levelGives l raw) (h0 : 0 ≤ f) (h1 : f ≤ 200000000) (h2 : raw ≤ 16383) :
    ∃ u, Initialized (State.start r) raw u := by
  set v := validated f raw (State.start r) with hv
  have hvalidate : exec .validate (State.start r) = .next v := exec_validate_passes hf hl hraw h0 h1 h2
  have hobs : observe params v.trace = observe params (State.start r).trace := observe_validated f raw _
  have hlatches : v.pinsFollowTrace = true := pinsFollowTrace_of_observe hobs rfl
  have hstaged : (observe params v.trace).staged = none := by rw [hobs]; rfl
  have hinit := initPins_eq v
  refine ⟨initPins params v, ?performs, linkReady_initPins hlatches, ?frames, ?reset, ?halted, ?exitCode, ?operands,
    ?asfbuf, rfl⟩
  case performs =>
    intro rest
    rw [runRows_of_next hvalidate rfl, runRows_of_next (exec_init v) rfl]
  case frames => rw [frames_initPins hstaged, frames_of_observe hobs]; rfl
  case reset => rw [hinit, replay_init_pins]
  all_goals rw [hinit]; rfl

/-- What is sent after INIT is all FRAMES holds. -/
theorem Initialized.frames_of_sends {s u t : State} {raw : ℕ} {fs : List Frame} (h : Initialized s raw u)
    (hsends : Sends fs u t) : t.frames = fs := by
  obtain ⟨-, hframes⟩ := hsends.observed h.linkReady
  rw [hframes, h.frames, List.nil_append]

/-- The last levels of a run (R263): RESET as INIT left it, the other lines as the last frame did. -/
theorem Initialized.last_levels {s u t : State} {raw : ℕ} {fs : List Frame} {f : Frame} (h : Initialized s raw u)
    {b : Bool} (hsends : Sends fs u t) (hf : fs.getLast? = some f) (hb : f.lastBit = b) :
    t.pins.reset.level = .ofBool (!params.resetActive) ∧ t.pins.cs.level = .ofBool params.csActive ∧
      t.pins.sclk.level = .low ∧ t.pins.ioupdate.level = .low ∧ t.pins.sdio.level = .ofBool b := by
  obtain ⟨hreset, hlevels⟩ := hsends.last_levels hf
  exact ⟨by rw [hreset, h.reset], hb ▸ hlevels⟩

theorem Initialized.allOut {s u : State} {raw : ℕ} (h : Initialized s raw u) : u.pins.allOut = true := by
  obtain ⟨hout, -⟩ := (linkReady_iff u).mp h.linkReady
  exact hout

/-! ## The rows both programs share -/

/-- The rows 2 to 5 of both programs (10_state.md R30). -/
def configRows : List Instr := [.wrCfr1, .wrArr, .wrCfr2, .wrAsf]

/-- What the rows 2 to 5 send (R257, R258). -/
def configFrames (m : Mode) (asf : Vector Byte 2) : List Frame :=
  [⟨params.addrCfr1, cfr1Payload params m⟩, ⟨params.addrArr, params.arrPayload⟩, ⟨params.addrCfr2, params.cfr2Payload⟩,
    ⟨params.addrAsf, asf.toList⟩]

theorem runs_configRows {s : State} {m : Mode} {asf : Vector Byte 2} (hm : s.mode = some m) (hasf : s.asfbuf = some asf)
    (hrun : s.halted = false) (hout : s.pins.allOut = true) : ∃ t, Runs configRows (configFrames m asf) s t := by
  have cfr1 := runs_registerWrite (i := .wrCfr1) rfl hrun .same (execWrCfr1_ok hm hout)
  have arr := cfr1.trans (runs_registerWrite (i := .wrArr) rfl (cfr1.sends.halted.trans hrun) .same
    (execWrArr_ok (cfr1.sends.allOut hout)))
  have cfr2 := arr.trans (runs_registerWrite (i := .wrCfr2) rfl (arr.sends.halted.trans hrun) .same
    (execWrCfr2_ok (arr.sends.allOut hout)))
  exact ⟨_, cfr2.trans (runs_registerWrite (i := .wrAsf) rfl (cfr2.sends.halted.trans hrun) .same
    (execWrAsf_ok (cfr2.sends.asfbuf.trans hasf) (cfr2.sends.allOut hout)))⟩

/-- The rows 2 to 5 after VALIDATE and INIT, in the run the host's request starts. -/
theorem Initialized.runs_configRows {r : Request} {m : Mode} {u : State} {raw : ℕ}
    (h : Initialized (State.start r) raw u) (hm : r.mode = some m) : ∃ t, Runs configRows
      (configFrames m #v[BitVec.ofNat 8 (raw / 256), BitVec.ofNat 8 raw]) u t := by
  obtain ⟨hmode, -⟩ := operands_eq h.operands
  have hloaded : (State.start r).mode = some m := by simp [State.start, State.hostLoad, hm]
  exact Machine.runs_configRows (hmode.trans hloaded) h.asfbuf h.halted h.allOut

/-! ## PROG_SF (R257) -/

theorem runs_wrFtw0 {s : State} {f : ℚ} (hrun : s.halted = false) (hout : s.pins.allOut = true) (hf : s.freq = some f)
    (hd : s.debug ≠ none) (h0 : 0 ≤ f) (h1 : wordOf f < 2 ^ 32) :
    ∃ t, Runs [.wrFtw0] [⟨params.addrFtw0, wordBytes (wordOf f)⟩] s t := by
  obtain ⟨u, hu⟩ := encFtw_ok hd h0 h1
  exact ⟨_, runs_registerWrite rfl hrun (.word hu) (execWrFtw0_ok hf hu hout)⟩

/-- Settles O47: the rows 2 to 6 send the five frames, and EXIT writes no pin. -/
theorem singleFrequencyRun : Obligations.SingleFrequencyRun := by
  rintro f l raw tone tone2 verbosity s rfl hraw h0 h1 h2
  obtain ⟨u, hu⟩ := start_initialized (r := ⟨some .singleFrequency, some f, tone, tone2, some l, verbosity⟩) rfl rfl
    hraw h0 h1 h2
  obtain ⟨v, hv⟩ := hu.runs_configRows rfl
  obtain ⟨-, hfreq, -, -, -, hdebug⟩ := operands_eq (hv.sends.operands.trans hu.operands)
  have hfits : wordOf f < 2 ^ 32 := wordOf_lt_of_lt_sysfreq (h1.trans_lt (by norm_num [params]))
  obtain ⟨w, hw⟩ := runs_wrFtw0 (hv.sends.halted.trans hu.halted) (hv.sends.allOut hu.allOut) hfreq
    (hdebug.trans_ne (Option.some_ne_none _)) h0 hfits
  have hrun := hv.trans hw
  have hlevels := hu.last_levels (b := (BitVec.ofInt 8 (wordOf f)).getLsbD 0) hrun.sends rfl rfl
  refine ⟨exitRun 0 w, ?performs, isFinal_exitRun w, rfl, ?seqPc, ?frames, hlevels⟩
  case performs => exact (hu.performs _).trans (hrun.performs [.exit 0])
  case seqPc => rw [exitRun_seqPc, hrun.seqPc, hu.seqPc]; rfl
  case frames => rw [frames_exitRun, hu.frames_of_sends hrun.sends]; rfl

/-! ## PROG_FM (R258 to R260) -/

/-- The RAM table over a carrier (41_tone_sweep.md R170). -/
def tableBytes (c : ℚ) : List Byte := params.toneTable.flatMap fun o : ℤ => wordBytes (wordOf (c + o))

/-- Where a list is made of pieces of one length, an element stands in the piece its index divided by the length names. -/
theorem getElem?_flatMap_of_length {α β : Type} {g : α → List β} {k : ℕ} (hg : ∀ x, (g x).length = k) (l : List α)
    {a : ℕ} {x : α} (hx : l[a / k]? = some x) (hk : 0 < k) : (l.flatMap g)[a]? = (g x)[a % k]? := by
  induction l generalizing a with
  | nil => cases hx
  | cons y rest ih =>
    rw [List.flatMap_cons]
    by_cases ha : a < k
    · rw [Nat.div_eq_of_lt ha] at hx
      obtain rfl : y = x := Option.some.inj hx
      rw [List.getElem?_append_left (by rw [hg]; exact ha), Nat.mod_eq_of_lt ha]
    · have hle : k ≤ a := not_lt.mp ha
      rw [Nat.div_eq_sub_div hk hle, List.getElem?_cons_succ] at hx
      rw [List.getElem?_append_right (by rw [hg]; exact hle), hg, ih hx, ← Nat.mod_eq_sub_mod hle]

theorem tableBytes_length (c : ℚ) : (tableBytes c).length = 400 := by
  rw [tableBytes, List.length_flatMap]
  simp only [wordBytes_length]
  rw [List.map_const', List.sum_replicate, toneTable_length]
  rfl

/-- The table in RAMBUF is the bytes of its entries in order. -/
theorem memGet_tableCells_eq_tableBytes (c : ℚ) (m : List Host.Cell) {a : ℕ} (ha : a < 400) :
    memGet (tableCells c m 100) a = (tableBytes c)[a]? := by
  have hentry : a / 4 < params.toneTable.length := by rw [toneTable_length]; omega
  have hget := List.getElem?_eq_getElem hentry
  rw [tableBytes, getElem?_flatMap_of_length (fun o : ℤ => wordBytes_length _) _ hget (by decide), memGet_tableCells,
    if_pos (by omega), hget, Option.getD_some]

/-- GEN_RAMTAB at its row: nothing is sent, and RAMBUF holds the table. -/
theorem runs_genRamtab {s : State} {c : ℚ} (hrun : s.halted = false) (hf : s.freq = some c) (hd : s.debug ≠ none)
    (hlow : 2500 ≤ c) (hhigh : c + 2500 < params.sysfreq) (hpc : s.seqPc = 6) :
    ∃ t, Runs [.genRamtab .freq] [] s t ∧ t.ramRead 0 400 = .ok (tableBytes c) := by
  obtain ⟨t, ht⟩ := genRamtab_ok hd (toneTable_sum_domain hlow hhigh)
  obtain ⟨w, new, hverbose, -, rfl⟩ := genRamtab_cases ht
  have hexec := exec_genRamtab_ok (readCarrier_ok (.inr ⟨rfl, hf⟩)) ht
  refine ⟨_, .of_row hrun hexec (by rw [hpc]; rfl) (.of_records rfl (fun e he => isRecord_of_isVerbose (hverbose e he))
    (fun e he => isExit_of_isVerbose (hverbose e he)) rfl rfl rfl rfl rfl), ?_⟩
  exact ramRead_of_bytes (tableBytes_length c) fun a ha => memGet_tableCells_eq_tableBytes c s.rambuf ha

theorem runs_wrRam {s : State} {bs : List Byte} (hrun : s.halted = false) (hout : s.pins.allOut = true)
    (hbs : s.ramRead 0 400 = .ok bs) : ∃ t, Runs [.wrRam] [⟨params.addrRam, bs⟩] s t :=
  ⟨_, runs_registerWrite rfl hrun .same (execWrRam_ok hbs hout)⟩

/-- The rows 6 to 8: the table, and the first tone. -/
theorem runs_tableAndTone {s : State} {c t1 : ℚ} (hrun : s.halted = false) (hout : s.pins.allOut = true)
    (hf : s.freq = some c) (hd : s.debug ≠ none) (hlow : 2500 ≤ c) (hhigh : c + 2500 < params.sysfreq)
    (hpc : s.seqPc = 6) (h1 : s.tone1 = some t1) (ha1 : toneAdmitted t1) :
    ∃ t, Runs [.genRamtab .freq, .wrRam, .wrRscw .tone1]
      [⟨params.addrRam, tableBytes c⟩, ⟨params.addrRscw, rscwPayload t1⟩] s t := by
  obtain ⟨u, table, hread⟩ := runs_genRamtab hrun hf hd hlow hhigh hpc
  obtain ⟨v, hv⟩ := runs_wrRam (table.sends.halted.trans hrun) (table.sends.allOut hout) hread
  have ram := table.trans hv
  obtain ⟨w, hw⟩ := runs_wrRscw (r := .tone1) (ram.sends.halted.trans hrun) (ram.sends.allOut hout)
    ((ram.sends.tone .tone1).trans h1) ha1
  exact ⟨w, ram.trans hw⟩

theorem runs_btone2 {s : State} {hz : ℚ} (k : StepIndex) (hrun : s.halted = false) (h : s.tone2 = some hz)
    (hpos : 0 < hz) : Runs [.btone2 k] [] s { s with seqPc := k } :=
  .of_row hrun (by rw [exec_btone2 k h, if_pos hpos]) rfl (sends_setPc s k)

/-- The first six frames of an FM-tone run (R258). -/
def fmFrames (c t1 : ℚ) (raw : ℕ) : List Frame :=
  configFrames .frequencyModulatedTone #v[BitVec.ofNat 8 (raw / 256), BitVec.ofNat 8 raw] ++
    [⟨params.addrRam, tableBytes c⟩, ⟨params.addrRscw, rscwPayload t1⟩]

/-- The rows 2 to 8 of PROG_FM. -/
def fmRows : List Instr := configRows ++ [.genRamtab .freq, .wrRam, .wrRscw .tone1]

/-- After VALIDATE and INIT the rows 2 to 8 send the six frames. -/
theorem Initialized.runs_fmRows {r : Request} {u : State} {raw : ℕ} {c t1 : ℚ} (h : Initialized (State.start r) raw u)
    (hm : r.mode = some .frequencyModulatedTone) (hf : r.freq = some c) (h1 : r.tone = some t1) (hlow : 2500 ≤ c)
    (hhigh : c + 2500 < params.sysfreq) (ha1 : toneAdmitted t1) : ∃ t, Runs fmRows (fmFrames c t1 raw) u t := by
  obtain ⟨v, hv⟩ := h.runs_configRows hm
  obtain ⟨-, hfreq, htone, -, -, hdebug⟩ := operands_eq (hv.sends.operands.trans h.operands)
  have hpc : v.seqPc = 6 := hv.seqPc.trans (by rw [h.seqPc]; rfl)
  have hloaded : (State.start r).tone1 = some t1 := by simp [State.start, State.hostLoad, h1]
  obtain ⟨w, hw⟩ := runs_tableAndTone (hv.sends.halted.trans h.halted) (hv.sends.allOut h.allOut) (hfreq.trans hf)
    (hdebug.trans_ne (Option.some_ne_none _)) hlow hhigh hpc (htone.trans hloaded) ha1
  exact ⟨w, hv.trans hw⟩

/-- Settles O48: without a second tone BTONE2 ends the run after the six frames; with one it goes on to one pass of the loop. -/
theorem fmToneRun : Obligations.FmToneRun := by
  rintro f t1 t2 l raw verbosity s rfl hraw hlow hhigh hfull ha1 hadmitted
  obtain ⟨u, hu⟩ := start_initialized
    (r := ⟨some .frequencyModulatedTone, some f, some t1, some t2, some l, verbosity⟩) rfl rfl hraw (by linarith)
    hhigh hfull
  have hpeak : (200002500 : ℚ) < params.sysfreq := by norm_num [params]
  obtain ⟨v, hv⟩ := hu.runs_fmRows rfl rfl rfl hlow (by linarith) ha1
  obtain ⟨-, -, h1, h2, -⟩ := operands_eq (hv.sends.operands.trans hu.operands)
  have htone1 : v.tone1 = some t1 := h1
  have htone2 : v.tone2 = some t2 := h2
  have hgoing : v.halted = false := hv.sends.halted.trans hu.halted
  by_cases hpos : 0 < t2
  · obtain ⟨w, hw⟩ := runs_toneLoopRows (s := { v with seqPc := 10 }) hgoing (hv.sends.allOut hu.allOut) htone1 htone2
      ha1 (hadmitted.resolve_left (not_le.mpr hpos))
    have hrun := (hv.trans (runs_btone2 10 hgoing htone2 hpos)).trans hw
    have hlevels := hu.last_levels (b := params.rscwTail[2].getLsbD 0) hrun.sends rfl rfl
    refine ⟨w, tableBytes f, (hu.performs _).trans (hrun.performs []), rfl, ?frames,
      fun hneg => absurd hneg (not_le.mpr hpos),
      fun _ => ⟨hrun.sends.halted.trans hu.halted, hrun.sends.exitCode.trans hu.exitCode, ?seqPc⟩, hlevels⟩
    case frames => rw [hu.frames_of_sends hrun.sends, if_pos hpos]; rfl
    case seqPc => rw [hrun.seqPc, hu.seqPc]; rfl
  · have hend : exec (.btone2 10) v = .next (exitRun 0 v) := (exec_btone2 10 htone2).trans (by rw [if_neg hpos])
    have hrows := (hv.performs (.btone2 10 :: toneLoopRows)).trans (runRows_of_end hend rfl _)
    have hlevels := hu.last_levels (b := params.rscwTail[2].getLsbD 0) hv.sends rfl rfl
    refine ⟨exitRun 0 v, tableBytes f, (hu.performs _).trans hrows, rfl, ?sixFrames,
      fun _ => ⟨isFinal_exitRun v, rfl, ?lastRow⟩, fun h => absurd h hpos, hlevels⟩
    case sixFrames => rw [frames_exitRun, hu.frames_of_sends hv.sends, if_neg hpos]; rfl
    case lastRow => rw [exitRun_seqPc, hv.seqPc, hu.seqPc]; rfl

end Sys2Proof.Machine
end

section
/-! SUPPORT. The run of a request that fails validation (60_exceptions.md R296, 70_reset_and_hazards.md R345): its one step is
VALIDATE, which writes diagnostics and the `Exit(1)` record and nothing that a pin or the observer sees. -/

namespace Sys2Proof.Machine

/-- Row 0 of both programs is VALIDATE (10_state.md R30). -/
theorem program_zero (m : Mode) : program params m 0 = some .validate := by
  cases m <;> rfl

/-- The first step of a run is VALIDATE, whatever program the request selects (44_sequencer.md R251). -/
theorem step_start (r : Request) : step (State.start r) = exec .validate (State.start r) :=
  step_of_row rfl rfl (program_zero _)

theorem frames_start (r : Request) : (State.start r).frames = [] := rfl

/-- Settles O51: every event of the failed VALIDATE (O40) is a record, so the observer takes no frame, and HALTED stops the run. -/
theorem fatalRunSendsNothing : Obligations.FatalRunSendsNothing := by
  intro r f l raw hf hl hraw hfail
  obtain ⟨c, pre, w, k, -, -, hpre, hexec⟩ := validateFatal (State.start r) f l raw hf hl hraw hfail
  have hrecords : ∀ e ∈ .exit 1 :: .diag (.fatal c) :: pre, e.isRecord = true := by
    obtain rfl | ⟨rfl, -⟩ := hpre <;> simp [Event.isRecord]
  have hrun : runToHalt 1 (State.start r) = _ := runToHalt_of_next rfl ((step_start r).trans hexec) 0
  refine ⟨_, hrun, rfl, rfl, ?frames, rfl, step_of_halted rfl⟩
  case frames => exact (frames_of_observe (observe_of_records rfl hrecords)).trans (frames_start r)

end Sys2Proof.Machine
end

section
/-! SUPPORT. The hazards over every operation (70_reset_and_hazards.md R340, R341): each operation appends a list of events that
is harmless from quiet lines, and such lists compose, so that the hazard invariant goes from state to state. -/

namespace Sys2Proof.Machine

/-! ## Lists of events that are harmless from quiet lines -/

/-- From quiet lines the events have no hazard, and they leave the lines quiet for the next. -/
def Harmless (es : List Event) : Prop := ∀ ps : Pins, ps.quiet → hazardFree ps es = true ∧ (ps.replay es).quiet

theorem Harmless.append {es fs : List Event} (h : Harmless es) (k : Harmless fs) : Harmless (es ++ fs) := by
  intro ps hquiet
  obtain ⟨hfree, hmid⟩ := h ps hquiet
  obtain ⟨kfree, kquiet⟩ := k _ hmid
  rw [hazardFree_append, replay_append, hfree, kfree]
  exact ⟨rfl, kquiet⟩

theorem replay_of_records (ps : Pins) {es : List Event} (h : ∀ e ∈ es, e.isRecord = true) : ps.replay es = ps := by
  induction es with
  | nil => rfl
  | cons e rest ih =>
    obtain ⟨he, hrest⟩ := List.forall_mem_cons.mp h
    cases e with
    | sleep ms | diag k | trace text | exit code => exact ih hrest
    | dir p | drive p l => cases he

/-- A record moves no pin, so it is allowed at any levels. -/
theorem harmless_of_records {es : List Event} (h : ∀ e ∈ es, e.isRecord = true) : Harmless es := by
  induction es with
  | nil => exact fun ps hquiet => ⟨rfl, hquiet⟩
  | cons e rest ih =>
    obtain ⟨he, hrest⟩ := List.forall_mem_cons.mp h
    cases e with
    | sleep ms | diag k | trace text | exit code => exact ih hrest
    | dir p | drive p l => cases he

theorem pauseEvents_isRecord (ms : ℕ) : ∀ e ∈ pauseEvents ms, e.isRecord = true := by
  unfold pauseEvents
  split <;> simp [Event.isRecord]

theorem harmless_byteEvents (b : Byte) : Harmless (byteEvents b) :=
  fun _ hquiet => ⟨hazardFree_byte b hquiet, quiet_byte b hquiet⟩

theorem harmless_strobeEvents (c : Config) : Harmless (strobeEvents c) := by
  intro ps hquiet
  refine ⟨hazardFree_strobe c ps, ?_⟩
  rw [replay_strobe_pins]
  exact ⟨hquiet.1, by simp⟩

theorem harmless_frameEvents (c : Config) (i : Byte) (d : List Byte) : Harmless (frameEvents c i d) :=
  fun _ hquiet => hazardFree_frame c i d hquiet

/-- INIT drives chip-select while the strobe is not high, and SCLK only after the strobe is driven low (44_sequencer.md R255). -/
theorem harmless_initEvents : Harmless initEvents := by
  intro ps hquiet
  constructor
  · have hstrobe : ps.ioupdate.level ≠ .high := hquiet.2
    unfold initEvents pauseEvents
    split <;> simp [hazardFree, eventAllowed, Pins.event, Pins.set, Pins.get, Level.ofBool, hstrobe]
  · rw [replay_init_pins]
    exact ⟨by simp, by simp⟩

/-! ## Operations whose events are harmless -/

/-- From `s` to `t` harmless events are appended to TRACE, and the latches follow them (10_state.md R36, R40). -/
def PerformsHarmless (s t : State) : Prop :=
  ∃ new, t.trace = s.trace ++ new ∧ t.pins = s.pins.replay new ∧ Harmless new

/-- The conjuncts of the hazard invariant, in the terms proofs use. -/
theorem hazardInv_iff (s : State) : s.hazardInv = true ↔
    s.pins = Pins.atReset.replay s.trace ∧ s.pins.quiet ∧ hazardFree .atReset s.trace = true := by
  simp only [State.hazardInv, State.quiet, Pins.quiet, Bool.and_eq_true, pinsFollowTrace_iff, bne_iff_ne, and_assoc]

/-- Harmless events keep the hazard invariant: the levels they start from are the quiet ones the trace left. -/
theorem PerformsHarmless.hazardInv {s t : State} (h : PerformsHarmless s t) (hs : s.hazardInv = true) :
    t.hazardInv = true := by
  obtain ⟨new, htrace, hpins, hharmless⟩ := h
  obtain ⟨hfollows, hquiet, hfree⟩ := (hazardInv_iff s).mp hs
  obtain ⟨hnew, hquiet'⟩ := hharmless s.pins hquiet
  refine (hazardInv_iff t).mpr ⟨?_, hpins ▸ hquiet', ?_⟩
  · rw [hpins, htrace, replay_append, ← hfollows]
  · rw [htrace, hazardFree_append, hfree, ← hfollows, hnew]
    rfl

theorem PerformsHarmless.trans {s t u : State} (h : PerformsHarmless s t) (k : PerformsHarmless t u) :
    PerformsHarmless s u := by
  obtain ⟨es, hes, hesPins, hesHarmless⟩ := h
  obtain ⟨fs, hfs, hfsPins, hfsHarmless⟩ := k
  exact ⟨es ++ fs, by rw [hfs, hes, List.append_assoc], by rw [hfsPins, hesPins, replay_append],
    hesHarmless.append hfsHarmless⟩

/-- Harmless events in the order performed; the log is kept newest first. -/
theorem performsHarmless_of_events {s t : State} {es : List Event} (hlog : t.log = es.reverse ++ s.log)
    (hpins : t.pins = s.pins.replay es) (hes : Harmless es) : PerformsHarmless s t :=
  ⟨es, trace_of_log hlog, hpins, hes⟩

/-- Records that move no pin, the newest first. -/
theorem performsHarmless_of_records {s t : State} {es : List Event} (hlog : t.log = es ++ s.log) (hpins : t.pins = s.pins)
    (hes : ∀ e ∈ es, e.isRecord = true) : PerformsHarmless s t := by
  have hrev : ∀ e ∈ es.reverse, e.isRecord = true := fun e he => hes e (List.mem_reverse.mp he)
  exact ⟨es.reverse, trace_of_log (by rw [hlog, List.reverse_reverse]), by rw [hpins, replay_of_records _ hrev],
    harmless_of_records hrev⟩

/-- Neither event nor pin. -/
theorem performsHarmless_of_same {s t : State} (hlog : t.log = s.log) (hpins : t.pins = s.pins) : PerformsHarmless s t :=
  performsHarmless_of_records (es := []) hlog hpins (List.forall_mem_nil _)

theorem setPc_performsHarmless (s : State) (pc : StepIndex) : PerformsHarmless s { s with seqPc := pc } :=
  performsHarmless_of_same rfl rfl

theorem pause_performsHarmless (ms : ℕ) (s : State) : PerformsHarmless s (s.pause ms) :=
  ⟨pauseEvents ms, trace_pause ms s, by rw [pause_pins, replay_of_records _ (pauseEvents_isRecord ms)],
    harmless_of_records (pauseEvents_isRecord ms)⟩

theorem shiftByte_performsHarmless (b : Byte) (s : State) : PerformsHarmless s (shiftByte b s) := by
  rw [shiftByte_eq]
  exact performsHarmless_of_events rfl rfl (harmless_byteEvents b)

theorem strobe_performsHarmless (s : State) : PerformsHarmless s (strobe params s) := by
  rw [strobe_eq]
  exact performsHarmless_of_events rfl rfl (harmless_strobeEvents params)

theorem afterXfer_performsHarmless (i : Byte) (d : List Byte) (s : State) : PerformsHarmless s (afterXfer params i d s) :=
  performsHarmless_of_events (afterXfer_log params i d s) (afterXfer_pins params i d s) (harmless_frameEvents params i d)

theorem initPins_performsHarmless (s : State) : PerformsHarmless s (initPins params s) := by
  rw [initPins_eq]
  exact performsHarmless_of_events rfl rfl harmless_initEvents

theorem raiseFatal_performsHarmless (cause : FatalCause) (s : State) : PerformsHarmless s (raiseFatal cause s) :=
  performsHarmless_of_records (es := [.exit 1, .diag (.fatal cause)]) rfl rfl (by simp [Event.isRecord])

theorem exitRun_performsHarmless (code : ℕ) (s : State) : PerformsHarmless s (exitRun code s) :=
  performsHarmless_of_records (es := [.exit code]) rfl rfl (by simp [Event.isRecord])

theorem Prepared.performsHarmless {s u : State} (h : Prepared s u) : PerformsHarmless s u := by
  obtain ⟨new, hverbose, hframe⟩ := h.frame
  exact performsHarmless_of_records (congrArg State.log hframe) h.pins fun e he => isRecord_of_isVerbose (hverbose e he)

theorem genRamtab_performsHarmless {c : ℚ} {s t : State} (h : genRamtab params c s = .ok t) : PerformsHarmless s t := by
  obtain ⟨w, new, hverbose, -, rfl⟩ := genRamtab_cases h
  exact performsHarmless_of_records rfl rfl fun e he => isRecord_of_isVerbose (hverbose e he)

/-- A register write is its preparation and one frame (43_register_frames.md R220). -/
theorem registerWrite_performsHarmless {i : Instr} {r : ChipReg} {s t : State} (hr : i.chipReg? = some r)
    (h : exec i s = .next t) : PerformsHarmless s t := by
  obtain ⟨u, d, hu, rfl⟩ := registerWrite_next hr h
  exact (hu.performsHarmless.trans (afterXfer_performsHarmless _ d u)).trans (setPc_performsHarmless _ _)

/-- VALIDATE appends diagnostics only, passed or fatal (44_sequencer.md R252). -/
theorem execValidate_performsHarmless {s t : State} (h : execValidate s = .next t) : PerformsHarmless s t := by
  obtain ⟨l, f, -, -, ⟨-, -, -, rfl⟩ | ⟨c, pre, -, hpre, rfl⟩⟩ := execValidate_next h
  · by_cases hwarn : 160000000 < f
    · exact performsHarmless_of_records (es := [.diag .freqHigh]) (if_pos hwarn) rfl (by simp [Event.isRecord])
    · exact performsHarmless_of_same (if_neg hwarn) rfl
  · refine PerformsHarmless.trans ?_ (raiseFatal_performsHarmless c _)
    refine performsHarmless_of_records (es := pre) rfl rfl ?_
    rcases hpre with rfl | ⟨rfl, -⟩ <;> simp [Event.isRecord]

/-! ## Every operation -/

theorem operation_performsHarmless (i : Instr) (hi : isMacro i = false) (s t : State) (h : exec i s = .next t) :
    PerformsHarmless s t := by
  cases i with
  | wrCfr1 | wrArr | wrCfr2 | wrAsf | wrFtw0 | wrRam | wrRscw r => exact registerWrite_performsHarmless rfl h
  | encFtw f => exact (Prepared.word (execEncFtw_next h)).performsHarmless
  | encAsfRel d | encAsfDbm p | encAsfInt n => cases h; exact performsHarmless_of_same rfl rfl
  | chkAsf =>
    obtain ⟨n, -, ⟨-, rfl⟩ | ⟨-, rfl⟩⟩ := execChkAsf_next h
    · exact performsHarmless_of_same rfl rfl
    · exact raiseFatal_performsHarmless .ampRange s
  | genRscw hz => obtain ⟨-, rfl⟩ := execGenRscw_next h; exact (Prepared.rate hz).performsHarmless
  | genRamtab k =>
    obtain ⟨c, u, -, hu, rfl⟩ := execGenRamtab_next h
    exact (genRamtab_performsHarmless hu).trans (setPc_performsHarmless u 7)
  | xfer b d => obtain ⟨-, rfl⟩ := execXfer_next h; exact afterXfer_performsHarmless b d s
  | shiftByte b => cases h; exact shiftByte_performsHarmless b s
  | strobe => cases h; exact strobe_performsHarmless s
  | validate => exact execValidate_performsHarmless h
  | init => cases h; exact initPins_performsHarmless s
  | btone2 k =>
    obtain ⟨hz, -, ⟨-, rfl⟩ | ⟨-, rfl⟩⟩ := execBtone2_next h
    · exact setPc_performsHarmless s k
    · exact exitRun_performsHarmless 0 s
  | sleep ms => cases h; exact (pause_performsHarmless ms s).trans (setPc_performsHarmless _ _)
  | jmp k => cases h; exact setPc_performsHarmless s k
  | exit code => cases h; exact exitRun_performsHarmless code s
  | progSf | progFm => cases hi

/-- The macros too: their rows are operations, and harmless lists of events compose. -/
theorem exec_performsHarmless {i : Instr} {s t : State} (h : exec i s = .next t) : PerformsHarmless s t :=
  exec_relates (fun _ => performsHarmless_of_same rfl rfl) PerformsHarmless.trans setPc_performsHarmless
    operation_performsHarmless h

/-- Settles O52: a step runs one operation, and every operation appends harmless events to a trace that left the lines quiet. -/
theorem hazardsNeverArise : Obligations.HazardsNeverArise := by
  refine ⟨fun s t hs h => ?step, fun i s t hs h => (exec_performsHarmless h).hazardInv hs⟩
  case step =>
    obtain ⟨m, i, -, -, -, hi⟩ := step_next h
    exact (exec_performsHarmless hi).hazardInv hs

end Sys2Proof.Machine
end
